-- ==== Sys2Proof/Syntax.lean ====
section
/-! DEFINITION. The instructions, one constructor per row of the opcode table (30_encoding R85).
An operand is the unsigned value of its argument word, used exactly as read (30_encoding R83, R84). -/

namespace Sys2Proof

/-- The 18 instructions. `x` is the first argument word and `y` the second (30_encoding R81): register indices,
but for `jmp` and `jz`, whose `x` is an absolute word address (30_encoding R83). -/
inductive Instr where
  /-- 0x00 NOOP -/
  | noop
  /-- 0x01 RST, the normal halt -/
  | rst
  /-- 0x02 CLR: `CR[x] = 0` -/
  | clr (x : Nat)
  /-- 0x03 INC: `CR[x] += 1` -/
  | inc (x : Nat)
  /-- 0x04 SUM: `AR = CR[x] + CR[y]` -/
  | sum (x y : Nat)
  /-- 0x05 MOV: `CR[x] = CR[y]` -/
  | mov (x y : Nat)
  /-- 0x06 CLRA, also named RSTA: `AR = 0` (30_encoding R89) -/
  | clra
  /-- 0x07 INCA: `AR += 1` -/
  | inca
  /-- 0x08 ADDA: `AR += CR[x]` -/
  | adda (x : Nat)
  /-- 0x09 LD: `CR[y] = RAM[CR[x]]` -/
  | ld (x y : Nat)
  /-- 0x0A ST: `RAM[CR[y]] = CR[x]` -/
  | st (x y : Nat)
  /-- 0x0B SUB: `AR = CR[x] - CR[y]` -/
  | sub (x y : Nat)
  /-- 0x0C SUBA: `AR -= CR[x]` -/
  | suba (x : Nat)
  /-- 0x0D DEC: `CR[x] -= 1` -/
  | dec (x : Nat)
  /-- 0x0E DECA: `AR -= 1` -/
  | deca
  /-- 0x0F JMP: `IP = x` -/
  | jmp (x : Nat)
  /-- 0x12 CMP: `Zero = (CR[x] == CR[y])` -/
  | cmp (x y : Nat)
  /-- 0x13 JZ: `IP = x` iff `Zero` -/
  | jz (x : Nat)
deriving DecidableEq, Repr

/-- The opcode of an instruction (30_encoding R85). -/
def Instr.opcode : Instr → Nat
  | .noop => 0x00
  | .rst => 0x01
  | .clr _ => 0x02
  | .inc _ => 0x03
  | .sum _ _ => 0x04
  | .mov _ _ => 0x05
  | .clra => 0x06
  | .inca => 0x07
  | .adda _ => 0x08
  | .ld _ _ => 0x09
  | .st _ _ => 0x0A
  | .sub _ _ => 0x0B
  | .suba _ => 0x0C
  | .dec _ => 0x0D
  | .deca => 0x0E
  | .jmp _ => 0x0F
  | .cmp _ _ => 0x12
  | .jz _ => 0x13

/-- The operands of an instruction in the order of their argument words (30_encoding R81). -/
def Instr.operands : Instr → List Nat
  | .noop | .rst | .clra | .inca | .deca => []
  | .clr x | .inc x | .adda x | .suba x | .dec x | .jmp x | .jz x => [x]
  | .sum x y | .mov x y | .ld x y | .st x y | .sub x y | .cmp x y => [x, y]

end Sys2Proof
end

