-- ==== Sys2Proof/WellFormed.lean ====
section
/-! DEFINITION. Which instructions a W-bit machine can encode (30_encoding R83, R88). -/

namespace Sys2Proof

/-- The opcode fits a W-bit word: CMP and JZ need W ≥ 5 (30_encoding R88). -/
def Instr.opcodeFits (w : Nat) (i : Instr) : Bool := decide (i.opcode < 2 ^ w)

/-- Every operand is the value of a W-bit argument word (30_encoding R83, R84). A register index at or beyond
CN_COUNT is no ill-formed operand: it faults when used (30_encoding R87). -/
def Instr.operandsFit (w : Nat) (i : Instr) : Bool := i.operands.all fun x => decide (x < 2 ^ w)

/-- `i` can be written as words of width `w`. -/
def Instr.wf (w : Nat) (i : Instr) : Bool := i.opcodeFits w && i.operandsFit w

end Sys2Proof
end

