-- ==== Sys2Proof/Word.lean ====
section
/-! DEFINITION. The machine word and its constants (00_scope R8, R13; 40_alu R105). -/

namespace Sys2Proof

/-- A W-bit word: bit 0 is the least significant, the value is unsigned (00_scope R13). -/
abbrev Word (w : Nat) := BitVec w

/-- One word of RAM at a word address. For W = 8 this is `Host.Cell` (20_memory R50). -/
abbrev Cell (w : Nat) := Nat × Word w

/-- `from_value(w, n)`, the w-bit word of value n mod 2^w (40_alu R105, the spec's decision D27). -/
abbrev fromValue (w n : Nat) : Word w := BitVec.ofNat w n

/-- `zero(w)` (40_alu R105). -/
abbrev zeroWord (w : Nat) : Word w := fromValue w 0

/-- `one(w)` (40_alu R105). -/
abbrev oneWord (w : Nat) : Word w := fromValue w 1

end Sys2Proof
end

