-- ==== Sys2Proof/Decode.lean ====
section
/-! DEFINITION. The dispatch table, the decoder and the encoder (30_encoding R80 to R88, 41_pipeline R147).
The opcodes stand twice on purpose: `Instr.opcode` gives the opcode of a constructor, the table gives the constructor of an
opcode, and the laws say that the two agree. -/

namespace Sys2Proof

/-- Why words are no instruction. -/
inductive DecodeError where
  /-- The opcode word is in no row of the table (30_encoding R87). -/
  | unknownOpcode
  /-- The words end before the instruction's last argument word (30_encoding R80). -/
  | truncated
deriving DecidableEq, Repr

/-- One row of the opcode map (30_encoding R85): the opcode, the number of argument words, and the instruction that the
argument words x and y (0 where not taken) make. -/
structure OpcodeRow where
  opcode : Nat
  mnemonic : String
  arity : Nat
  build : Nat → Nat → Instr

/-- The complete opcode map (30_encoding R85). -/
def opcodeTable : List OpcodeRow :=
  [ ⟨0x00, "NOOP", 0, fun _ _ => .noop⟩,
    ⟨0x01, "RST", 0, fun _ _ => .rst⟩,
    ⟨0x02, "CLR", 1, fun x _ => .clr x⟩,
    ⟨0x03, "INC", 1, fun x _ => .inc x⟩,
    ⟨0x04, "SUM", 2, fun x y => .sum x y⟩,
    ⟨0x05, "MOV", 2, fun x y => .mov x y⟩,
    ⟨0x06, "CLRA_RSTA", 0, fun _ _ => .clra⟩,
    ⟨0x07, "INCA", 0, fun _ _ => .inca⟩,
    ⟨0x08, "ADDA", 1, fun x _ => .adda x⟩,
    ⟨0x09, "LD", 2, fun x y => .ld x y⟩,
    ⟨0x0A, "ST", 2, fun x y => .st x y⟩,
    ⟨0x0B, "SUB", 2, fun x y => .sub x y⟩,
    ⟨0x0C, "SUBA", 1, fun x _ => .suba x⟩,
    ⟨0x0D, "DEC", 1, fun x _ => .dec x⟩,
    ⟨0x0E, "DECA", 0, fun _ _ => .deca⟩,
    ⟨0x0F, "JMP", 1, fun x _ => .jmp x⟩,
    ⟨0x12, "CMP", 2, fun x y => .cmp x y⟩,
    ⟨0x13, "JZ", 1, fun x _ => .jz x⟩ ]

/-- The row of an opcode, matched on the whole word's unsigned value (30_encoding R82, R87). -/
def lookup (op : Nat) : Option OpcodeRow := opcodeTable.find? fun r => decide (r.opcode = op)

/-- Reads one instruction from the front of a list of words and answers the words after it. The first word alone fixes
the length (30_encoding R80, R86). -/
def decode {w : Nat} : List (Word w) → Except DecodeError (Instr × List (Word w))
  | [] => .error .truncated
  | v :: rest =>
    match lookup v.toNat with
    | none => .error .unknownOpcode
    | some row =>
      match row.arity, rest with
      | 0, rest => .ok (row.build 0 0, rest)
      | 1, x :: rest => .ok (row.build x.toNat 0, rest)
      | 2, x :: y :: rest => .ok (row.build x.toNat y.toNat, rest)
      | _, _ => .error .truncated

/-- The arity of an instruction, the number of its argument words (30_encoding R80). -/
def Instr.arity (i : Instr) : Nat := i.operands.length

/-- The length of an instruction in words (30_encoding R80). -/
def Instr.length (i : Instr) : Nat := 1 + i.arity

/-- The words of an instruction: its opcode word, then its argument words (30_encoding R80, R81). -/
def encode (w : Nat) (i : Instr) : List (Word w) := (i.opcode :: i.operands).map (fromValue w)

/-- The k-th 8-bit word of an instruction given as the opcode table numbers its bits: bit 0 is the least significant bit
of the first word, and the bits from `nbits` up are 0 (the table's rows are shown for W = 8). -/
def tableWord (nbits v k : Nat) : Nat := v % 2 ^ nbits / 2 ^ (8 * k) % 2 ^ 8

/-- The instruction the decoder reads, at W = 8, from the bits `v` of a row of the opcode table. -/
def decodeTableWord (nbits v : Nat) : Option Instr :=
  match decode ((List.range 3).map fun k => fromValue 8 (tableWord nbits v k)) with
  | .ok (i, _) => some i
  | .error _ => none

end Sys2Proof
end

