-- ==== Sys2Proof/Config.lean ====
section
/-! DEFINITION. The construction parameters of a machine (00_scope R8 to R11).
The spec leaves no result of the machine open, so there is no free value here. -/

namespace Sys2Proof

/-- The parameters of one constructed machine. The two bounds are the checks that construction makes on them
(70_reset R250): parameters that break one make no machine, so they cannot be built. -/
structure Config where
  /-- W, the word width in bits (00_scope R8). -/
  w : Nat
  /-- CPU_MEM_BITS, the size of the CPU memory in bits (00_scope R9). -/
  cpuMemBits : Nat
  /-- RAM_WORDS, the number of words of RAM (00_scope R11). -/
  ramWords : Nat
  wide : 4 ≤ w
  roomy : 8 * w ≤ cpuMemBits
deriving DecidableEq, Repr

/-- SERVICE_REGISTERS (00_scope R10). -/
def serviceRegisters : Nat := 8

/-- CN_COUNT, the number of general registers, by floor division (00_scope R10, the spec's decision D13). -/
def Config.cnCount (c : Config) : Nat := c.cpuMemBits / c.w - serviceRegisters

/-- The bits of CPU memory at or beyond the last whole word slot (10_state R21). -/
def Config.unusedBits (c : Config) : Nat := c.cpuMemBits - (serviceRegisters + c.cnCount) * c.w

/-- The default configuration: W = 8, CPU_MEM_BITS = 128, RAM_WORDS = 256 (00_scope R12, the spec's decision D2). -/
def Config.default : Config := ⟨8, 128, 256, by decide, by decide⟩

/-- The configuration of the spec's 4-bit test vectors (00_scope R12, the spec's decision D2). -/
def Config.narrow : Config := ⟨4, 64, 16, by decide, by decide⟩

end Sys2Proof
end

