-- ==== Sys2Proof/Machine/State.lean ====
section
/-! DEFINITION. The state of the machine (10_state R20 to R43), the ways a step can stop, and the state after reset. -/

namespace Sys2Proof.Machine

/-- The pipeline state, a 3-bit register (10_state R22, R23). The values 6 and 7 can stand only in a state that a host
built (41_pipeline R139). -/
inductive PipelineState where
  | fetch
  | decode
  | read1
  | read2
  | execute1
  | execute2
  | invalid6
  | invalid7
deriving DecidableEq, Repr

/-- The causes of Fatal (60_exceptions R221): labels for the reader. The hardware records none of them. -/
inductive FatalCause where
  | counterOverflow
  | ipOverflow
  | unknownOpcode
  | badPipelineState
  | registerIndex
  | argAddressOverflow
deriving DecidableEq, Repr

/-- RAM as a list of (word address, word), in the canonical form of `Ram.wf`: addresses strictly rising, each below
RAM_WORDS, and no entry equal to what an unlisted address reads as. -/
abbrev Ram (w : Nat) := List (Cell w)

/-- The state of a machine with the parameters `c`: the tuple CPU, RAM, CTRL, ADDR, DATA of 10_state R20, with the CPU
memory held by register and bit field, and the ghost record that R43 allows. -/
structure Mach (c : Config) where
  /-- System[2:0] (10_state R22). -/
  pipelineState : PipelineState
  /-- System[3]: the instruction takes a second argument (10_state R24). -/
  argumentMode : Bool
  /-- System[W-1:4], reserved (10_state R36). -/
  systemReserved : BitVec (c.w - 4)
  /-- Slot 1, the opcode word of the current instruction (10_state R25). -/
  commandCode : Word c.w
  /-- Slot 2, the first argument word (10_state R25). -/
  arg1 : Word c.w
  /-- Slot 3, the second argument word (10_state R25). -/
  arg2 : Word c.w
  /-- Flags[0], the machine is halted; sticky (10_state R27). -/
  terminated : Bool
  /-- Flags[1], the carry or borrow of the last register add or subtract (10_state R29). -/
  overflow : Bool
  /-- Flags[2], the machine halted on a fault; sticky (10_state R28). -/
  fatal : Bool
  /-- Flags[3], the result of the last CMP (10_state R30). -/
  zero : Bool
  /-- Flags[W-1:4], reserved (10_state R36). -/
  flagsReserved : BitVec (c.w - 4)
  /-- Slot 5, the executed-instruction count (10_state R31). -/
  counter : Word c.w
  /-- Slot 6, the instruction pointer, a word address (10_state R32). -/
  ip : Word c.w
  /-- Slot 7, the accumulator (10_state R33). -/
  ar : Word c.w
  /-- Slots 8 and up, the general registers CR[0] to CR[CN_COUNT-1] (10_state R34). -/
  cr : Vector (Word c.w) c.cnCount
  /-- The bits of CPU memory beyond the last whole slot (10_state R21). -/
  unused : BitVec c.unusedBits
  /-- RAM (10_state R40). -/
  ram : Ram c.w
  /-- CTRL[0], a bus request is valid (10_state R37). -/
  en : Bool
  /-- CTRL[1], the request is a write (10_state R37). -/
  wr : Bool
  /-- The address bus, a word address (10_state R38). -/
  addr : Word c.w
  /-- The data bus (10_state R39). -/
  data : Word c.w
  /-- GHOST, not architectural (10_state R43): the label of the fault that was raised. No rule of the machine reads it. -/
  ghostCause : Option FatalCause
deriving DecidableEq, Repr

/-- A machine: its construction parameters, which no step changes, and its state. -/
structure State where
  /-- The parameters the machine was constructed with (00_scope R8 to R11). -/
  cfg : Config
  /-- The state of the machine (10_state R20). -/
  mach : Mach cfg
deriving DecidableEq, Repr

/-- What stops the machine with no next state. A machine fault is none of these: Fatal is a next state with the flags
Fatal and Terminated set (60_exceptions R222). -/
inductive Fault where
  /-- HostError(RamAddressOutOfRange): the RAM half services a request whose ADDR ≥ RAM_WORDS (20_memory R52,
  60_exceptions R227). Raised by the RAM half of a tick and by a RAM tick alone. Safe: the spec gives that tick no next
  state either. -/
  | ramAddressOutOfRange
deriving DecidableEq, Repr

/-- Why the model gives an instruction no meaning. -/
inductive Refusal where
  /-- No meaning is modelled for the instruction of this mnemonic. Raised by no arm of `exec` now. Safe. -/
  | notModelled (mnemonic : String)
deriving DecidableEq, Repr

/-- A machine right after construction, over a given RAM (10_state R41): every bit of CPU memory is 0, so the pipeline
is in Fetch, and the buses are 0 (the spec's decision D9). -/
def Mach.initial (c : Config) (ram : Ram c.w) : Mach c where
  pipelineState := .fetch
  argumentMode := false
  systemReserved := 0
  commandCode := 0
  arg1 := 0
  arg2 := 0
  terminated := false
  overflow := false
  fatal := false
  zero := false
  flagsReserved := 0
  counter := 0
  ip := 0
  ar := 0
  cr := Vector.replicate c.cnCount 0
  unused := 0
  ram := ram
  en := false
  wr := false
  addr := 0
  data := 0
  ghostCause := none

/-- The machine right after reset (10_state R41, 70_reset R251), in the spec's default configuration (00_scope R12).
DESIGN CHOICE (logs 2 and 3): the configuration, and the RAM image of all zeros, which lists nothing. `construct` builds
every other machine. -/
def State.reset : State := ⟨Config.default, Mach.initial Config.default []⟩

end Sys2Proof.Machine
end

