-- ==== Sys2Proof/Machine/Flags.lean ====
section
/-! DEFINITION. The ALU and the flag computations (40_alu R100 to R109, R119; 10_state R26 to R30). -/

namespace Sys2Proof.Machine

/-- The n-bit word whose bit i is `f i`. -/
def bitsOf : (n : Nat) → (Nat → Bool) → BitVec n
  | 0, _ => 0#0
  | n + 1, f => BitVec.cons (f n) (bitsOf n f)

/-- The carry of one full adder (40_alu R100). -/
def majority (a b c : Bool) : Bool := (a && b) || (a && c) || (b && c)

/-- The carry into bit `i` of `a + b`; the incoming carry at bit 0 is 0 (40_alu R100). -/
def carryInto {w : Nat} (a b : Word w) : Nat → Bool
  | 0 => false
  | i + 1 => majority (a.getLsbD i) (b.getLsbD i) (carryInto a b i)

/-- `add_W`: bit-serial addition, least significant bit first, with its final carry (40_alu R100). -/
def addW {w : Nat} (a b : Word w) : Word w × Bool :=
  (bitsOf w fun i => xor (xor (a.getLsbD i) (b.getLsbD i)) (carryInto a b i), carryInto a b w)

/-- The borrow of one full subtractor. PRESUMED (log 10): the spec gives it from general knowledge (40_alu R102). -/
def borrowOut (a b bo : Bool) : Bool := (!a && b) || (!a && bo) || (b && bo)

/-- The borrow into bit `i` of `a - b`; the incoming borrow at bit 0 is 0 (40_alu R102). -/
def borrowInto {w : Nat} (a b : Word w) : Nat → Bool
  | 0 => false
  | i + 1 => borrowOut (a.getLsbD i) (b.getLsbD i) (borrowInto a b i)

/-- `sub_W`: bit-serial subtraction a - b with its final borrow (40_alu R102). -/
def subW {w : Nat} (a b : Word w) : Word w × Bool :=
  (bitsOf w fun i => xor (xor (a.getLsbD i) (b.getLsbD i)) (borrowInto a b i), borrowInto a b w)

variable {c : Config}

/-- `set_overflow(b)`: Overflow is overwritten, never latched (40_alu R107). -/
def Mach.setOverflow (m : Mach c) (b : Bool) : Mach c := { m with overflow := b }

/-- Zero ← (a = b), CMP's flag: it writes no Overflow (46_compare_branch R211, 40_alu R119, the spec's decision D19). -/
def Mach.setZero (m : Mach c) (a b : Word c.w) : Mach c := { m with zero := decide (a = b) }

/-- Terminated ← 1 (10_state R27, 42_control R161). -/
def Mach.setTerminated (m : Mach c) : Mach c := { m with terminated := true }

end Sys2Proof.Machine
end

