-- ==== Sys2Proof/Machine/Ops.lean ====
section
/-! DEFINITION. The shared operations: bit fields, RAM, registers, bus requests, taking a fault, and the commit
(40_alu R106 to R118, 20_memory R50 to R54). -/

namespace Sys2Proof.Machine

/-! ## Bit fields (40_alu R106) -/

/-- `get_bits(vector, offset, width)` (40_alu R106). -/
def getBits {n : Nat} (v : BitVec n) (offset width : Nat) : BitVec width :=
  bitsOf width fun i => v.getLsbD (offset + i)

/-- `set_bits(vector, offset, value)`: every other bit is unchanged (40_alu R106). -/
def setBits {n width : Nat} (v : BitVec n) (offset : Nat) (value : BitVec width) : BitVec n :=
  bitsOf n fun i => if offset ≤ i ∧ i < offset + width then value.getLsbD (i - offset) else v.getLsbD i

/-! ## RAM (20_memory R50, R54) -/

/-- What an address that the list does not hold reads as. DESIGN CHOICE (log 3). -/
def Ram.unlisted (w : Nat) : Word w := zeroWord w

/-- The word at address `a`, `MemRead(a, 1)` (20_memory R54). The bound is checked by the RAM responder. -/
def Ram.read {w : Nat} : Ram w → Nat → Word w
  | [], _ => Ram.unlisted w
  | (k, v) :: rest, a => if k = a then v else Ram.read rest a

/-- RAM with the word at address `a` replaced, `MemWrite(a, 1, v)` (20_memory R54), in canonical form again. -/
def Ram.write {w : Nat} : Ram w → Nat → Word w → Ram w
  | [], a, v => if v = Ram.unlisted w then [] else [(a, v)]
  | (k, u) :: rest, a, v =>
    if a < k then (if v = Ram.unlisted w then (k, u) :: rest else (a, v) :: (k, u) :: rest)
    else if a = k then (if v = Ram.unlisted w then rest else (a, v) :: rest)
    else (k, u) :: Ram.write rest a v

/-- The canonical form, for addresses from `lo` up. -/
def Ram.wfFrom {w : Nat} (ramWords : Nat) : Nat → Ram w → Bool
  | _, [] => true
  | lo, (k, v) :: rest =>
    decide (lo ≤ k) && decide (k < ramWords) && decide (v ≠ Ram.unlisted w) && Ram.wfFrom ramWords (k + 1) rest

/-- The canonical form of a RAM of `ramWords` words: addresses strictly rising and below `ramWords`, no entry equal to
what an unlisted address reads as. -/
def Ram.wf {w : Nat} (ramWords : Nat) (ram : Ram w) : Bool := Ram.wfFrom ramWords 0 ram

/-- The RAM that holds the words of an image from address `a` up (20_memory R68). -/
def Ram.ofImage {w : Nat} : Nat → List (Word w) → Ram w
  | _, [] => []
  | a, v :: rest => if v = Ram.unlisted w then Ram.ofImage (a + 1) rest else (a, v) :: Ram.ofImage (a + 1) rest

variable {c : Config}

/-! ## Registers that an addition or subtraction can target (40_alu R108) -/

/-- Counter, IP, AR, or a general register whose index has been checked (40_alu R108). -/
inductive RegRef (c : Config) where
  | counter
  | ip
  | ar
  | cr (i : Fin c.cnCount)
deriving DecidableEq, Repr

/-- The value of a register. -/
def Mach.get (m : Mach c) : RegRef c → Word c.w
  | .counter => m.counter
  | .ip => m.ip
  | .ar => m.ar
  | .cr i => m.cr[i]

/-- A register replaced, nothing else changed (10_state R35). -/
def Mach.set (m : Mach c) (r : RegRef c) (v : Word c.w) : Mach c :=
  match r with
  | .counter => { m with counter := v }
  | .ip => { m with ip := v }
  | .ar => { m with ar := v }
  | .cr i => { m with cr := m.cr.set i v }

/-- `AddToReg(R, v)`: the wrapped sum and Overflow are written, and the carry is answered (40_alu R108). -/
def Mach.addToReg (m : Mach c) (r : RegRef c) (v : Word c.w) : Mach c × Bool :=
  ((m.set r (addW (m.get r) v).1).setOverflow (addW (m.get r) v).2, (addW (m.get r) v).2)

/-- `SubFromReg(R, v)`: the wrapped difference and Overflow are written, and the borrow is answered (40_alu R108). -/
def Mach.subFromReg (m : Mach c) (r : RegRef c) (v : Word c.w) : Mach c × Bool :=
  ((m.set r (subW (m.get r) v).1).setOverflow (subW (m.get r) v).2, (subW (m.get r) v).2)

/-- `inc_register(R)` (40_alu R109). -/
def Mach.incRegister (m : Mach c) (r : RegRef c) : Mach c × Bool := m.addToReg r (oneWord c.w)

/-- `dec_register(R)` (40_alu R109). -/
def Mach.decRegister (m : Mach c) (r : RegRef c) : Mach c × Bool := m.subFromReg r (oneWord c.w)

/-! ## Taking a fault (40_alu R110, 60_exceptions R222) -/

/-- `raise Fatal(cause)`: Fatal and Terminated are set, and the state answered is the one in which the tick ends.
Writes made earlier in the tick stay (the spec's decision D16). Nothing is saved and control goes nowhere
(60_exceptions R222). There is no return from a fault (60_exceptions R224), so no operation undoes this one.
The label goes to the ghost record only (10_state R43). -/
def Mach.raiseFatal (m : Mach c) (cause : FatalCause) : Mach c :=
  { m with fatal := true, terminated := true, ghostCause := some cause }

/-! ## The commit (40_alu R111 to R114) and the jump step (46_compare_branch R210)

An operation that can raise takes what comes after it as `k`: a raise ends the tick, so `k` is then not run. -/

/-- `BumpIP(n)`: IP advances by n words, and a carry is fatal (40_alu R111, the spec's decision D14). -/
def Mach.bumpIP (m : Mach c) (n : Nat) (k : Mach c → Mach c) : Mach c :=
  let (m, carry) := m.addToReg .ip (fromValue c.w n)
  if carry then m.raiseFatal .ipOverflow else k m

/-- The Counter step of a commit or a jump: a carry is fatal (40_alu R112). -/
def Mach.bumpCounter (m : Mach c) (k : Mach c → Mach c) : Mach c :=
  let (m, carry) := m.incRegister .counter
  if carry then m.raiseFatal .counterOverflow else k m

/-- `Commit(n)`: Counter, then IP, then the pipeline goes to Fetch (40_alu R112, R114). -/
def Mach.commit (m : Mach c) (n : Nat) : Mach c :=
  m.bumpCounter fun m => m.bumpIP n fun m => { m with pipelineState := .fetch }

/-- `JumpTo(x)`: Counter, then IP is replaced, with no IP addition (46_compare_branch R210, the spec's decision D18). -/
def Mach.jumpTo (m : Mach c) (x : Word c.w) : Mach c :=
  m.bumpCounter fun m => { m with ip := x, pipelineState := .fetch }

/-! ## Bus requests (20_memory R53, 40_alu R118) -/

/-- `RequestRead(a)`: DATA is not written (20_memory R53). -/
def Mach.requestRead (m : Mach c) (a : Word c.w) : Mach c := { m with en := true, wr := false, addr := a }

/-- `RequestWrite(a, v)` (20_memory R53). -/
def Mach.requestWrite (m : Mach c) (a v : Word c.w) : Mach c :=
  { m with en := true, wr := true, addr := a, data := v }

/-- `ArgAddress(k)`: IP + k, with a carry fatal and Overflow not written (41_pipeline R141, the spec's decision D15). -/
def Mach.argAddress (m : Mach c) (k : Nat) (next : Word c.w → Mach c) : Mach c :=
  let (a, carry) := addW m.ip (fromValue c.w k)
  if carry then m.raiseFatal .argAddressOverflow else next a

/-! ## From a CPU operation to an outcome -/

/-- Runs an operation that always leaves a state, a fault's among them. -/
def State.cpu (s : State) (f : Mach s.cfg → Mach s.cfg) : Host.Outcome State Fault Refusal :=
  .next ⟨s.cfg, f s.mach⟩

end Sys2Proof.Machine
end

