-- ==== Sys2Proof/Machine/Operands.lean ====
section
/-! DEFINITION. The operand forms: a register index, checked when used, and an absolute word address
(30_encoding R83, R84; 10_state R34). -/

namespace Sys2Proof.Machine

variable {c : Config}

/-- The index check of `ReadCR` and `WriteCR`: an index at or beyond CN_COUNT is fatal, and never wraps or aliases
another register (10_state R34). -/
def Mach.withIndex (m : Mach c) (i : Nat) (k : Fin c.cnCount → Mach c) : Mach c :=
  if h : i < c.cnCount then k ⟨i, h⟩ else m.raiseFatal .registerIndex

/-- `ReadCR(i)` (10_state R34). -/
def Mach.readCR (m : Mach c) (i : Nat) (k : Word c.w → Mach c) : Mach c :=
  m.withIndex i fun j => k (m.get (.cr j))

/-- `WriteCR(i, v)` (10_state R34). -/
def Mach.writeCR (m : Mach c) (i : Nat) (v : Word c.w) (k : Mach c → Mach c) : Mach c :=
  m.withIndex i fun j => k (m.set (.cr j) v)

/-- Two register operands, read x first, then y, before anything is written (40_alu R115). -/
def Mach.readCR2 (m : Mach c) (x y : Nat) (k : Word c.w → Word c.w → Mach c) : Mach c :=
  m.readCR x fun a => m.readCR y fun b => k a b

/-- An absolute target address, the argument word exactly as read (30_encoding R83, R84). -/
def target (c : Config) (x : Nat) : Word c.w := fromValue c.w x

end Sys2Proof.Machine
end

