-- ==== Sys2Proof/Machine/Accumulator.lean ====
section
/-! DEFINITION. SUM, CLRA/RSTA, INCA, ADDA, SUB, SUBA and DECA (44_accumulator). -/

namespace Sys2Proof.Machine

/-- SUM: `AR = CR[x] + CR[y]`, by loading AR and adding (44_accumulator R180, the spec's decision D33). -/
def execSum (x y : Nat) (s : State) : Host.Outcome State Fault Refusal :=
  s.cpu fun m => m.readCR2 x y fun a b => ((m.set .ar a).addToReg .ar b).1.commit 3

/-- CLRA, also named RSTA: `AR = 0` (44_accumulator R181). -/
def execClra (s : State) : Host.Outcome State Fault Refusal :=
  s.cpu fun m => (m.set .ar (zeroWord _)).commit 1

/-- INCA: `AR += 1` (44_accumulator R182). -/
def execInca (s : State) : Host.Outcome State Fault Refusal :=
  s.cpu fun m => (m.incRegister .ar).1.commit 1

/-- ADDA: `AR += CR[x]` (44_accumulator R183). -/
def execAdda (x : Nat) (s : State) : Host.Outcome State Fault Refusal :=
  s.cpu fun m => m.readCR x fun b => (m.addToReg .ar b).1.commit 2

/-- SUB: `AR = CR[x] - CR[y]`, by loading AR and subtracting (44_accumulator R184, the spec's decision D33). -/
def execSub (x y : Nat) (s : State) : Host.Outcome State Fault Refusal :=
  s.cpu fun m => m.readCR2 x y fun a b => ((m.set .ar a).subFromReg .ar b).1.commit 3

/-- SUBA: `AR -= CR[x]` (44_accumulator R185). -/
def execSuba (x : Nat) (s : State) : Host.Outcome State Fault Refusal :=
  s.cpu fun m => m.readCR x fun b => (m.subFromReg .ar b).1.commit 2

/-- DECA: `AR -= 1` (44_accumulator R186). -/
def execDeca (s : State) : Host.Outcome State Fault Refusal :=
  s.cpu fun m => (m.decRegister .ar).1.commit 1

end Sys2Proof.Machine
end

