-- ==== Sys2Proof/Machine/Branch.lean ====
section
/-! DEFINITION. JMP, CMP and JZ (46_compare_branch). -/

namespace Sys2Proof.Machine

/-- JMP: `IP = x`, and Counter still increments (46_compare_branch R210). -/
def execJmp (x : Nat) (s : State) : Host.Outcome State Fault Refusal :=
  s.cpu fun m => m.jumpTo (target _ x)

/-- CMP: `Zero = (CR[x] == CR[y])` (46_compare_branch R211). -/
def execCmp (x y : Nat) (s : State) : Host.Outcome State Fault Refusal :=
  s.cpu fun m => m.readCR2 x y fun a b => (m.setZero a b).commit 3

/-- JZ: `IP = x` if Zero, else the instruction commits; Zero is not cleared (46_compare_branch R212). -/
def execJz (x : Nat) (s : State) : Host.Outcome State Fault Refusal :=
  s.cpu fun m => if m.zero then m.jumpTo (target _ x) else m.commit 2

end Sys2Proof.Machine
end

