-- ==== Sys2Proof/Machine/Control.lean ====
section
/-! DEFINITION. NOOP and RST (42_control). -/

namespace Sys2Proof.Machine

/-- NOOP (42_control R160). -/
def execNoop (s : State) : Host.Outcome State Fault Refusal := s.cpu fun m => m.commit 1

/-- RST, the normal halt: it sets Terminated and commits (42_control R161). -/
def execRst (s : State) : Host.Outcome State Fault Refusal := s.cpu fun m => m.setTerminated.commit 1

end Sys2Proof.Machine
end

