-- ==== Sys2Proof/Machine/LoadStore.lean ====
section
/-! DEFINITION. LD, in its two phases, and ST (45_load_store). -/

namespace Sys2Proof.Machine

variable {c : Config}

/-- LD, phase 1: the read of RAM[CR[x]] is requested, and nothing commits (45_load_store R200). -/
def Mach.ldPhase1 (m : Mach c) (x : Nat) : Mach c :=
  m.readCR x fun a => { m.requestRead a with pipelineState := .execute2 }

/-- LD, phase 2: DATA goes to CR[y], and the instruction commits (45_load_store R201). -/
def Mach.ldPhase2 (m : Mach c) (y : Nat) : Mach c := m.writeCR y m.data fun m => m.commit 3

/-- LD: `CR[y] = RAM[CR[x]]`. The pipeline state selects the phase: phase 2 in Execute2, phase 1 in the one other state
that runs a handler, Execute1 (45_load_store R200, R201; 41_pipeline R137, R138; log 9). -/
def execLd (x y : Nat) (s : State) : Host.Outcome State Fault Refusal :=
  s.cpu fun m => if m.pipelineState = .execute2 then m.ldPhase2 y else m.ldPhase1 x

/-- ST: `RAM[CR[y]] = CR[x]`. The write is requested, and the RAM half of the next tick performs it
(45_load_store R202). -/
def execSt (x y : Nat) (s : State) : Host.Outcome State Fault Refusal :=
  s.cpu fun m => m.readCR2 x y fun v a => (m.requestWrite a v).commit 3

end Sys2Proof.Machine
end

