-- ==== Sys2Proof/Machine/Register.lean ====
section
/-! DEFINITION. CLR, INC, MOV and DEC (43_register). -/

namespace Sys2Proof.Machine

/-- CLR: `CR[x] = 0` (43_register R170). -/
def execClr (x : Nat) (s : State) : Host.Outcome State Fault Refusal :=
  s.cpu fun m => m.writeCR x (zeroWord _) fun m => m.commit 2

/-- INC: `CR[x] += 1`; the carry goes to Overflow, which the commit rewrites (43_register R171). -/
def execInc (x : Nat) (s : State) : Host.Outcome State Fault Refusal :=
  s.cpu fun m => m.withIndex x fun i => (m.incRegister (.cr i)).1.commit 2

/-- MOV: `CR[x] = CR[y]`, with the destination's index checked first (43_register R172). -/
def execMov (x y : Nat) (s : State) : Host.Outcome State Fault Refusal :=
  s.cpu fun m => m.readCR2 x y fun _ v => m.writeCR x v fun m => m.commit 3

/-- DEC: `CR[x] -= 1`; the borrow goes to Overflow, which the commit rewrites (43_register R173). -/
def execDec (x : Nat) (s : State) : Host.Outcome State Fault Refusal :=
  s.cpu fun m => m.withIndex x fun i => (m.decRegister (.cr i)).1.commit 2

end Sys2Proof.Machine
end

