-- ==== Sys2Proof/Machine/Dispatch.lean ====
section
/-! DEFINITION. One arm per instruction: the handler that the dispatch table names (41_pipeline R147). -/

namespace Sys2Proof.Machine

def exec (i : Instr) (s : State) : Host.Outcome State Fault Refusal :=
  match i with
  | .noop => Sys2Proof.Machine.execNoop s
  | .rst => Sys2Proof.Machine.execRst s
  | .clr x => Sys2Proof.Machine.execClr x s
  | .inc x => Sys2Proof.Machine.execInc x s
  | .sum x y => Sys2Proof.Machine.execSum x y s
  | .mov x y => Sys2Proof.Machine.execMov x y s
  | .clra => Sys2Proof.Machine.execClra s
  | .inca => Sys2Proof.Machine.execInca s
  | .adda x => Sys2Proof.Machine.execAdda x s
  | .ld x y => Sys2Proof.Machine.execLd x y s
  | .st x y => Sys2Proof.Machine.execSt x y s
  | .sub x y => Sys2Proof.Machine.execSub x y s
  | .suba x => Sys2Proof.Machine.execSuba x s
  | .dec x => Sys2Proof.Machine.execDec x s
  | .deca => Sys2Proof.Machine.execDeca s
  | .jmp x => Sys2Proof.Machine.execJmp x s
  | .cmp x y => Sys2Proof.Machine.execCmp x y s
  | .jz x => Sys2Proof.Machine.execJz x s

end Sys2Proof.Machine
end

