-- ==== Sys2Proof/Machine/Pipeline.lean ====
section
/-! DEFINITION. The pipeline state machine, the RAM responder and the tick sequencer (41_pipeline R130 to R149,
20_memory R54). -/

namespace Sys2Proof.Machine

variable {c : Config}

/-! ## The states that fetch an instruction (41_pipeline R133 to R136) -/

/-- FetchStep: the decode scratch registers are cleared and a read at IP is requested, without a check of IP
(41_pipeline R133). -/
def Mach.fetchStep (m : Mach c) : Mach c :=
  let m := { m with pipelineState := .fetch, argumentMode := false, commandCode := 0, arg1 := 0, arg2 := 0 }
  { m.requestRead m.ip with pipelineState := .decode }

/-- DecodeStep: DATA is consumed into CommandCode, and the opcode's arity chooses the next state (41_pipeline R134). -/
def Mach.decodeStep (m : Mach c) : Mach c :=
  let m := { m with commandCode := m.data }
  match lookup m.commandCode.toNat with
  | none => m.raiseFatal .unknownOpcode
  | some row =>
    if row.arity = 0 then { m with pipelineState := .execute1 }
    else
      let m := { m with argumentMode := decide (row.arity = 2) }
      m.argAddress 1 fun a => { m.requestRead a with pipelineState := .read1 }

/-- Read1Step: DATA is consumed into Arg1, and ArgumentMode chooses the next state (41_pipeline R135). -/
def Mach.read1Step (m : Mach c) : Mach c :=
  let m := { m with arg1 := m.data }
  if m.argumentMode then m.argAddress 2 fun a => { m.requestRead a with pipelineState := .read2 }
  else { m with pipelineState := .execute1 }

/-- Read2Step: DATA is consumed into Arg2 (41_pipeline R136). -/
def Mach.read2Step (m : Mach c) : Mach c := { m with arg2 := m.data, pipelineState := .execute1 }

/-! ## The states that run a handler (41_pipeline R137, R138) -/

/-- The words of the current instruction (10_state R25). -/
def Mach.scratch (m : Mach c) : List (Word c.w) := [m.commandCode, m.arg1, m.arg2]

/-- Execute1Step: the handler of CommandCode runs with Arg1 and Arg2; an opcode of no row, which only a host-built state
can hold, is fatal (41_pipeline R137, R147; the spec's decision D24). -/
def execute1Step (s : State) : Host.Outcome State Fault Refusal :=
  match decode s.mach.scratch with
  | .ok (i, _) => exec i s
  | .error _ => s.cpu fun m => m.raiseFatal .unknownOpcode

/-- The opcode of LD, the one instruction with a second phase (41_pipeline R138). -/
def ldOpcode : Nat := 0x09

/-- Execute2Step: LD's second phase; any other opcode is fatal (41_pipeline R138, R147; the spec's decision D24). -/
def execute2Step (s : State) : Host.Outcome State Fault Refusal :=
  if s.mach.commandCode.toNat ≠ ldOpcode then s.cpu fun m => m.raiseFatal .badPipelineState
  else exec (.ld s.mach.arg1.toNat s.mach.arg2.toNat) s

/-! ## The strobes (00_scope R6) -/

/-- What a strobe answers: the next state with the "still running" bit (00_scope R6). -/
abbrev StrobeOutcome := Host.Outcome (State × Bool) Fault Refusal

/-- The state of a CPU tick whose halt guard has passed: EN ← 0 (41_pipeline R131). -/
def State.clearEnable (s : State) : State := ⟨s.cfg, { s.mach with en := false }⟩

/-- The case on PipelineState of a CPU tick (41_pipeline R132, R139). -/
def pipelineStep (s : State) : Host.Outcome State Fault Refusal :=
  match s.mach.pipelineState with
  | .fetch => s.cpu Mach.fetchStep
  | .decode => s.cpu Mach.decodeStep
  | .read1 => s.cpu Mach.read1Step
  | .read2 => s.cpu Mach.read2Step
  | .execute1 => execute1Step s
  | .execute2 => execute2Step s
  | .invalid6 => s.cpu fun m => m.raiseFatal .badPipelineState
  | .invalid7 => s.cpu fun m => m.raiseFatal .badPipelineState

/-- The CPU tick, which is also the strobe `tick_cpu` (41_pipeline R132, R140, R145): false only from the halt guard. -/
def cpuTick (s : State) : StrobeOutcome :=
  if s.mach.terminated then .next (s, false)
  else
    match pipelineStep s.clearEnable with
    | .next t => .next (t, true)
    | .fault f => .fault f
    | .refused r => .refused r

/-- The RAM responder's work on the request that stands on the buses; none where the address is no word of RAM
(20_memory R52, R54). -/
def Mach.serviceRequest (m : Mach c) : Option (Mach c) :=
  if !m.en then some m
  else if c.ramWords ≤ m.addr.toNat then none
  else if m.wr then some { m with ram := Ram.write m.ram m.addr.toNat m.data }
  else some { m with data := Ram.read m.ram m.addr.toNat }

/-- RamTick: at most one read or write, no guard, and true when it completes (20_memory R54). -/
def ramTick (s : State) : StrobeOutcome :=
  match s.mach.serviceRequest with
  | some m => .next (⟨s.cfg, m⟩, true)
  | none => .fault .ramAddressOutOfRange

/-- The strobe `tick_ram`: the RAM half alone, behind the halt guard (41_pipeline R144, the spec's decision D21). -/
def tickRam (s : State) : StrobeOutcome := if s.mach.terminated then .next (s, false) else ramTick s

/-- The strobe `tick_cpu`: the CPU half alone (41_pipeline R145). -/
def tickCpu (s : State) : StrobeOutcome := cpuTick s

/-- The paired tick: the halt guard, the RAM half, then the CPU half (41_pipeline R142). -/
def tick (s : State) : StrobeOutcome :=
  if s.mach.terminated then .next (s, false)
  else
    match ramTick s with
    | .next (t, _) => cpuTick t
    | .fault f => .fault f
    | .refused r => .refused r

/-- The repetition of `tick(n)`: it stops early at the first tick that reports false (41_pipeline R143). -/
def tickRepeat : Nat → State → StrobeOutcome
  | 0, s => .next (s, true)
  | n + 1, s =>
    match tick s with
    | .next (t, true) => tickRepeat n t
    | .next (t, false) => .next (t, false)
    | .fault f => .fault f
    | .refused r => .refused r

/-- `tick(n)`. For n ≥ 1 the answer is false exactly when some tick in it found the machine halted, and for n = 0 it is
Terminated = 0 (41_pipeline R143, the spec's decision D23; log 15). -/
def tickN (n : Nat) (s : State) : StrobeOutcome :=
  if n = 0 then .next (s, !s.mach.terminated) else tickRepeat n s

/-! ## What a fetch leaves, for a program placed from outside -/

/-- The state in which an instruction whose words are `v`, `x` and `y` is about to execute, as the fetch ticks leave it:
the scratch registers hold the words that its arity takes (10_state R25), the pipeline is in Execute1, no request is
pending, and ADDR and DATA hold the last word read (41_pipeline R133 to R136). An opcode of no row counts as arity 0. -/
def Mach.fetched (m : Mach c) (v x y : Word c.w) : Mach c :=
  let arity := match lookup v.toNat with
    | some row => row.arity
    | none => 0
  { m with
    pipelineState := .execute1
    argumentMode := decide (arity = 2)
    commandCode := v
    arg1 := if 1 ≤ arity then x else 0
    arg2 := if arity = 2 then y else 0
    en := false
    wr := false
    addr := m.ip + fromValue c.w arity
    data := if arity = 2 then y else if arity = 1 then x else v }

/-- RAM with the words of a list placed from address `a` up; a word past the end of RAM has no place. -/
def Ram.place {w : Nat} (ramWords : Nat) : Ram w → Nat → List (Word w) → Ram w
  | ram, _, [] => ram
  | ram, a, v :: rest => Ram.place ramWords (if a < ramWords then Ram.write ram a v else ram) (a + 1) rest

/-- The bits of a table row placed as the instruction at IP, and fetched: log 8. -/
def Mach.load (m : Mach c) (nbits v : Nat) : Mach c :=
  let word := fun k => fromValue c.w (tableWord nbits v k)
  Mach.fetched { m with ram := Ram.place c.ramWords m.ram m.ip.toNat [word 0, word 1, word 2] } (word 0) (word 1) (word 2)

/-- The ticks of an instruction from its Fetch tick to its commit tick, both counted (41_pipeline R148). -/
def instrTicks : Instr → Nat
  | .noop | .rst | .clra | .inca | .deca => 3
  | .clr _ | .inc _ | .adda _ | .suba _ | .dec _ | .jmp _ | .jz _ => 4
  | .sum _ _ | .mov _ _ | .st _ _ | .sub _ _ | .cmp _ _ => 5
  | .ld _ _ => 6

end Sys2Proof.Machine
end

