-- ==== Sys2Proof/Machine/Step.lean ====
section
/-! DEFINITION. One step of the machine: one paired tick (70_reset R260; log 1). -/

namespace Sys2Proof.Machine

/-- One paired tick, without its "still running" bit. A halted machine steps to itself (41_pipeline R142). -/
def step (s : State) : Host.Outcome State Fault Refusal :=
  match tick s with
  | .next (t, _) => .next t
  | .fault f => .fault f
  | .refused r => .refused r

/-- `s` with the instruction of a table row placed at IP and fetched, so that the next step executes it (log 8). -/
def State.withFetchWord (s : State) (nbits w : Nat) : State := ⟨s.cfg, s.mach.load nbits w⟩

end Sys2Proof.Machine
end

