-- ==== Sys2Proof/Machine/Inspect.lean ====
section
/-! DEFINITION. What a host can inspect: the storage arrays as bits (10_state R20 to R26, R36, R37, R42; 20_memory R50),
and the state that such arrays make (70_reset R261). -/

namespace Sys2Proof.Machine

/-- The encoding of PipelineState (10_state R23). -/
def PipelineState.code : PipelineState → BitVec 3
  | .fetch => 0
  | .decode => 1
  | .read1 => 2
  | .read2 => 3
  | .execute1 => 4
  | .execute2 => 5
  | .invalid6 => 6
  | .invalid7 => 7

/-- The PipelineState of a 3-bit value (10_state R23). -/
def PipelineState.ofCode (b : BitVec 3) : PipelineState :=
  match b.toNat with
  | 0 => .fetch
  | 1 => .decode
  | 2 => .read1
  | 3 => .read2
  | 4 => .execute1
  | 5 => .execute2
  | 6 => .invalid6
  | _ => .invalid7

variable {c : Config}

/-- Slot 0, System (10_state R22, R36). -/
def Mach.systemWord (m : Mach c) : Word c.w :=
  bitsOf c.w fun i =>
    if i < 3 then m.pipelineState.code.getLsbD i
    else if i = 3 then m.argumentMode
    else m.systemReserved.getLsbD (i - 4)

/-- Slot 4, Flags (10_state R26, R36). -/
def Mach.flagsWord (m : Mach c) : Word c.w :=
  bitsOf c.w fun i =>
    if i = 0 then m.terminated
    else if i = 1 then m.overflow
    else if i = 2 then m.fatal
    else if i = 3 then m.zero
    else m.flagsReserved.getLsbD (i - 4)

/-- The word of slot k, `get_register(k)`; 0 beyond the last slot, which no register has (10_state R21). -/
def Mach.slot (m : Mach c) (k : Nat) : Word c.w :=
  match k with
  | 0 => m.systemWord
  | 1 => m.commandCode
  | 2 => m.arg1
  | 3 => m.arg2
  | 4 => m.flagsWord
  | 5 => m.counter
  | 6 => m.ip
  | 7 => m.ar
  | i + 8 => if h : i < c.cnCount then m.cr[i] else 0

/-- CPU memory as an array of bits: slot k at bits k*W to k*W + W-1, then the unused bits (10_state R20, R21). -/
def Mach.cpuImage (m : Mach c) : BitVec c.cpuMemBits :=
  bitsOf c.cpuMemBits fun n =>
    if n / c.w < serviceRegisters + c.cnCount then (m.slot (n / c.w)).getLsbD (n % c.w)
    else m.unused.getLsbD (n - (serviceRegisters + c.cnCount) * c.w)

/-- A typed bit field of CPU memory (10_state R21, 00_scope R17). -/
structure Reference where
  address : Nat
  width : Nat
deriving DecidableEq, Repr

/-- The Reference of word slot k (10_state R21). -/
abbrev slotRef (c : Config) (k : Nat) : Reference := ⟨k * c.w, c.w⟩

/-- The slot number of a register (10_state R21). -/
def RegRef.slotNumber : RegRef c → Nat
  | .counter => 5
  | .ip => 6
  | .ar => 7
  | .cr i => serviceRegisters + i.val

/-- The word at a Reference (40_alu R106). -/
def Mach.readRef (m : Mach c) (r : Reference) : BitVec r.width := getBits m.cpuImage r.address r.width

/-- Two References share no bit (10_state R35). -/
def Reference.disjoint (r s : Reference) : Prop :=
  r.address + r.width ≤ s.address ∨ s.address + s.width ≤ r.address

/-- The control bus as its two bits (10_state R37). -/
def Mach.ctrlBus (m : Mach c) : BitVec 2 := bitsOf 2 fun i => if i = 0 then m.en else m.wr

/-- RAM as an array of bits: word a at bits a*W to a*W + W-1 (20_memory R50, R51). -/
def Mach.ramImage (m : Mach c) : BitVec (c.ramWords * c.w) :=
  bitsOf (c.ramWords * c.w) fun n => (Ram.read m.ram (n / c.w)).getLsbD (n % c.w)

/-- The machine whose CPU memory is the bit array `cpu`, as a host may build it (70_reset R261). -/
def Mach.ofImage (cpu : BitVec c.cpuMemBits) (ram : Ram c.w) (ctrl : BitVec 2) (addr data : Word c.w)
    (ghost : Option FatalCause) : Mach c where
  pipelineState := .ofCode (getBits cpu 0 3)
  argumentMode := cpu.getLsbD 3
  systemReserved := getBits cpu 4 (c.w - 4)
  commandCode := getBits cpu (1 * c.w) c.w
  arg1 := getBits cpu (2 * c.w) c.w
  arg2 := getBits cpu (3 * c.w) c.w
  terminated := cpu.getLsbD (4 * c.w)
  overflow := cpu.getLsbD (4 * c.w + 1)
  fatal := cpu.getLsbD (4 * c.w + 2)
  zero := cpu.getLsbD (4 * c.w + 3)
  flagsReserved := getBits cpu (4 * c.w + 4) (c.w - 4)
  counter := getBits cpu (5 * c.w) c.w
  ip := getBits cpu (6 * c.w) c.w
  ar := getBits cpu (7 * c.w) c.w
  cr := Vector.ofFn fun i => getBits cpu ((8 + i.val) * c.w) c.w
  unused := getBits cpu ((serviceRegisters + c.cnCount) * c.w) c.unusedBits
  ram := ram
  en := ctrl.getLsbD 0
  wr := ctrl.getLsbD 1
  addr := addr
  data := data
  ghostCause := ghost

end Sys2Proof.Machine
end

