-- ==== Sys2Proof/Machine/Construct.lean ====
section
/-! DEFINITION. Construction, which is reset (70_reset R250 to R254). -/

namespace Sys2Proof.Machine

/-- Why no machine exists (60_exceptions R227, 70_reset R250). -/
inductive ConstructionError where
  /-- W < 4, and W = 0 among them (00_scope R8). -/
  | wordTooNarrow
  /-- CPU_MEM_BITS < 8 * W (00_scope R9). -/
  | cpuMemoryTooSmall
  /-- The image is not RAM_WORDS words long (20_memory R68). -/
  | wrongImageLength
deriving DecidableEq, Repr

/-- The machine of the given parameters and RAM image, in the reset state (70_reset R250). -/
def construct (w cpuMemBits ramWords : Nat) (image : List (Word w)) : Except ConstructionError State :=
  if hw : 4 ≤ w then
    if hr : 8 * w ≤ cpuMemBits then
      if image.length = ramWords then
        .ok ⟨⟨w, cpuMemBits, ramWords, hw, hr⟩, Mach.initial _ (Ram.ofImage 0 image)⟩
      else .error .wrongImageLength
    else .error .cpuMemoryTooSmall
  else .error .wordTooNarrow

end Sys2Proof.Machine
end

