-- ==== Sys2Proof/Safety.lean ====
section
/-! DEFINITION. Runs, how they end, and the terms that claims use (60_exceptions R225, 70_reset R259, R260). -/

namespace Sys2Proof.Machine

/-- `n` paired ticks, stopping at a host error (70_reset R260). -/
def run : Nat → State → Host.Outcome State Fault Refusal
  | 0, s => .next s
  | n + 1, s =>
    match step s with
    | .next t => run n t
    | .fault f => .fault f
    | .refused r => .refused r

/-- The run has ended in the state `s`, normally or by a fault (70_reset R259, R260). -/
def State.halted (s : State) : Prop := s.mach.terminated = true

/-- The normal end: RST halted the machine (60_exceptions R225). -/
def State.endedNormally (s : State) : Prop := s.mach.terminated = true ∧ s.mach.fatal = false

/-- The end by a fault (60_exceptions R225). -/
def State.endedByFault (s : State) : Prop := s.mach.terminated = true ∧ s.mach.fatal = true

variable {c : Config}

/-- Neither step of a commit of `n` words carries out of W bits (40_alu R112). -/
def Mach.canCommit (m : Mach c) (n : Nat) : Prop := m.counter.toNat + 1 < 2 ^ c.w ∧ m.ip.toNat + n < 2 ^ c.w

/-- What a commit of `n` words that does not fault leaves: Counter and IP advanced, Overflow 0, the pipeline in Fetch
(40_alu R112, R114, R116). -/
def Mach.committed (m : Mach c) (n : Nat) : Mach c :=
  { m with counter := m.counter + oneWord c.w, ip := m.ip + fromValue c.w n, overflow := false, pipelineState := .fetch }

/-- What a jump to `x` that does not fault leaves (46_compare_branch R210). -/
def Mach.jumped (m : Mach c) (x : Word c.w) : Mach c :=
  { m with counter := m.counter + oneWord c.w, ip := x, overflow := false, pipelineState := .fetch }

/-- The register indices that an instruction names (30_encoding R83). -/
def registersOf : Instr → List Nat
  | .noop | .rst | .clra | .inca | .deca | .jmp _ | .jz _ => []
  | .clr x | .inc x | .adda x | .suba x | .dec x => [x]
  | .sum x y | .mov x y | .ld x y | .st x y | .sub x y | .cmp x y => [x, y]

/-- The handler of `i` ends in a commit or a jump in this state: every handler but LD's first phase
(41_pipeline R137). -/
def Mach.commits (m : Mach c) (i : Instr) : Prop := ∀ x y, i = .ld x y → m.pipelineState = .execute2

/-- The handler of `i` ends in a jump in this state (46_compare_branch R210, R212). -/
def Mach.jumps (m : Mach c) (i : Instr) : Prop := ∃ x, i = .jmp x ∨ (i = .jz x ∧ m.zero = true)

/-- What the handler of `i` writes before its commit or jump, run in `m`, stands in `t`: its register, its request, Zero,
or Terminated from RST (40_alu R113). LD's is that of its second phase. An index beyond the register file writes
nothing. -/
def Mach.handlerWrote (m t : Mach c) : Instr → Prop
  | .noop | .jmp _ | .jz _ => True
  | .rst => t.terminated = true
  | .clr x => ∀ _ : x < c.cnCount, t.cr[x] = 0
  | .inc x => ∀ _ : x < c.cnCount, t.cr[x] = m.cr[x] + oneWord c.w
  | .dec x => ∀ _ : x < c.cnCount, t.cr[x] = m.cr[x] - oneWord c.w
  | .mov x y => ∀ (_ : x < c.cnCount) (_ : y < c.cnCount), t.cr[x] = m.cr[y]
  | .clra => t.ar = 0
  | .inca => t.ar = m.ar + oneWord c.w
  | .deca => t.ar = m.ar - oneWord c.w
  | .adda x => ∀ _ : x < c.cnCount, t.ar = m.ar + m.cr[x]
  | .suba x => ∀ _ : x < c.cnCount, t.ar = m.ar - m.cr[x]
  | .sum x y => ∀ (_ : x < c.cnCount) (_ : y < c.cnCount), t.ar = m.cr[x] + m.cr[y]
  | .sub x y => ∀ (_ : x < c.cnCount) (_ : y < c.cnCount), t.ar = m.cr[x] - m.cr[y]
  | .ld _ y => ∀ _ : y < c.cnCount, t.cr[y] = m.data
  | .st x y => ∀ (_ : x < c.cnCount) (_ : y < c.cnCount),
      t.en = true ∧ t.wr = true ∧ t.addr = m.cr[y] ∧ t.data = m.cr[x]
  | .cmp x y => ∀ (_ : x < c.cnCount) (_ : y < c.cnCount), t.zero = decide (m.cr[x] = m.cr[y])

/-- `t` has the decode scratch registers, the reserved bits and the unused bits of `m`. -/
def Mach.keepsScratch (m t : Mach c) : Prop :=
  t.argumentMode = m.argumentMode ∧ t.commandCode = m.commandCode ∧ t.arg1 = m.arg1 ∧ t.arg2 = m.arg2 ∧
    t.systemReserved = m.systemReserved ∧ t.flagsReserved = m.flagsReserved ∧ t.unused = m.unused

/-- `t` has the buses of `m`. -/
def Mach.keepsBuses (m t : Mach c) : Prop := t.en = m.en ∧ t.wr = m.wr ∧ t.addr = m.addr ∧ t.data = m.data

/-- Every word of RAM reads in `t` as in `m`. -/
def Mach.keepsRam (m t : Mach c) : Prop := ∀ a, Ram.read t.ram a = Ram.read m.ram a

/-- Every general register but those of `p` holds in `t` what it holds in `m`. -/
def Mach.keepsRegisters (m t : Mach c) (p : Nat → Prop) : Prop := ∀ j (h : j < c.cnCount), ¬ p j → t.cr[j] = m.cr[j]

/-- `t` has Fatal and Terminated of `m`, or a fault has set both. -/
def Mach.keepsHaltFlags (m t : Mach c) : Prop :=
  (t.fatal = m.fatal ∧ t.terminated = m.terminated) ∨ (t.fatal = true ∧ t.terminated = true)

/-- The words of `ws` stand in RAM from the address `a` up, at addresses that a W-bit word and RAM both have. -/
def Mach.holds (m : Mach c) (a : Nat) (ws : List (Word c.w)) : Prop :=
  a + ws.length ≤ 2 ^ c.w ∧ a + ws.length ≤ c.ramWords ∧
    ∀ k (h : k < ws.length), Ram.read m.ram (a + k) = ws[k]

/-- The current instruction is in the dispatch table, with an arity that `p` holds of (41_pipeline R147). -/
def Mach.decodedAs (m : Mach c) (p : Nat → Prop) : Prop := ∃ row, lookup m.commandCode.toNat = some row ∧ p row.arity

/-- What holds of a machine that has run from its construction by paired ticks. -/
structure Mach.Inv (m : Mach c) : Prop where
  /-- RAM is in its canonical form, and lists only words that exist (20_memory R52). -/
  ramCanonical : Ram.wf c.ramWords m.ram = true
  /-- Fatal is never set without Terminated (40_alu R110). -/
  fatalHalts : m.fatal = true → m.terminated = true
  /-- The ghost record stands exactly where a fault was raised (10_state R43). -/
  ghostRecordsFatal : m.ghostCause.isSome = m.fatal
  /-- Overflow is 0 at every tick boundary without a fault (40_alu R116). -/
  overflowOnlyOnFault : m.overflow = true → m.fatal = true
  /-- PipelineState is one of the six states (41_pipeline R139). -/
  legalState : m.pipelineState ≠ .invalid6 ∧ m.pipelineState ≠ .invalid7
  /-- The reserved and unused bits read 0 (10_state R36, R41). -/
  reservedZero : m.systemReserved = 0 ∧ m.flagsReserved = 0 ∧ m.unused = 0
  /-- In Decode the scratch registers are cleared, unless Decode faulted, and the read of the opcode word is pending
  (41_pipeline R133). -/
  inDecode : m.pipelineState = .decode → m.terminated = false →
    m.commandCode = 0 ∧ m.arg1 = 0 ∧ m.arg2 = 0 ∧ m.argumentMode = false ∧ m.en = true ∧ m.wr = false ∧ m.addr = m.ip
  /-- In Read1 the opcode is a listed one that takes arguments, ArgumentMode says whether it takes two, and the read of
  the word at IP + 1 is pending (41_pipeline R134). -/
  inRead1 : m.pipelineState = .read1 → m.terminated = false →
    m.decodedAs (fun n => n ≠ 0 ∧ m.argumentMode = decide (n = 2)) ∧ m.arg1 = 0 ∧ m.arg2 = 0 ∧
      m.en = true ∧ m.wr = false ∧ m.addr = m.ip + oneWord c.w
  /-- In Read2 the opcode takes two arguments, and the read of the word at IP + 2 is pending (41_pipeline R135). -/
  inRead2 : m.pipelineState = .read2 → m.terminated = false →
    m.decodedAs (fun n => n = 2) ∧ m.argumentMode = true ∧ m.arg2 = 0 ∧
      m.en = true ∧ m.wr = false ∧ m.addr = m.ip + fromValue c.w 2
  /-- In Execute1 the opcode is a listed one, an argument word it does not take is 0, and nothing is pending
  (41_pipeline R147, 10_state R25). -/
  inExecute1 : m.pipelineState = .execute1 → m.terminated = false →
    m.decodedAs (fun n => (n < 1 → m.arg1 = 0) ∧ (n < 2 → m.arg2 = 0)) ∧ m.en = false
  /-- In Execute2 the opcode is LD's, and its read is pending (41_pipeline R147). -/
  inExecute2 : m.pipelineState = .execute2 → m.terminated = false →
    m.commandCode.toNat = ldOpcode ∧ m.en = true ∧ m.wr = false
  /-- Between instructions only a store can be pending (20_memory R55, R66). -/
  inFetch : m.pipelineState = .fetch → m.en = true → m.wr = true

end Sys2Proof.Machine
end

