-- ==== Sys2Proof/Certificates/Slice0/Obligations.lean ====
section
/-! DEFINITION. The statements about the machine, for the provers. A state of the machine is written `⟨c, m⟩`: the
construction parameters `c`, any that construction accepts, and the state `m`. -/

open Sys2Proof Sys2Proof.Machine

/-! ## The ALU and the register operations -/

/-- 40_alu R101: addition is the sum mod 2^W, and the carry is the unsigned overflow. The value clause is the spec's own
inference from the full adder (R101, "derived: from rule R100"). -/
def Obligations.AdditionIsUnsignedSumWithCarry : Prop :=
  ∀ (w : Nat) (a b : Word w),
    (addW a b).1.toNat = (a.toNat + b.toNat) % 2 ^ w ∧ (addW a b).2 = decide (2 ^ w ≤ a.toNat + b.toNat)

/-- 40_alu R103: subtraction is the difference mod 2^W, and the borrow is a < b. The value for a < b is the spec's
general knowledge GK2 (log 10). -/
def Obligations.SubtractionIsUnsignedDifferenceWithBorrow : Prop :=
  ∀ (w : Nat) (a b : Word w),
    (subW a b).1.toNat = (2 ^ w + a.toNat - b.toNat) % 2 ^ w ∧ (subW a b).2 = decide (a.toNat < b.toNat)

/-- 40_alu R108: AddToReg and SubFromReg write the wrapped result and Overflow, answer the carry or borrow, leave every
other register alone and are no fault. -/
def Obligations.RegisterAddAndSubtractWriteOverflow : Prop :=
  ∀ (c : Config) (m : Mach c) (r : RegRef c) (v : Word c.w),
    ((m.addToReg r v).1.get r = (addW (m.get r) v).1 ∧ (m.addToReg r v).1.overflow = (addW (m.get r) v).2 ∧
      (m.addToReg r v).2 = (addW (m.get r) v).2 ∧ (∀ q, q ≠ r → (m.addToReg r v).1.get q = m.get q) ∧
      (m.addToReg r v).1.fatal = m.fatal ∧ (m.addToReg r v).1.terminated = m.terminated) ∧
    ((m.subFromReg r v).1.get r = (subW (m.get r) v).1 ∧ (m.subFromReg r v).1.overflow = (subW (m.get r) v).2 ∧
      (m.subFromReg r v).2 = (subW (m.get r) v).2 ∧ (∀ q, q ≠ r → (m.subFromReg r v).1.get q = m.get q) ∧
      (m.subFromReg r v).1.fatal = m.fatal ∧ (m.subFromReg r v).1.terminated = m.terminated)

/-! ## Encoding -/

/-- 30_encoding sections 1 to 3: the decoder reads back every well-formed instruction from its words, whatever follows. -/
def Obligations.DecodingAnEncodingGivesTheInstructionBack : Prop :=
  ∀ (w : Nat) (i : Instr) (rest : List (Word w)), i.wf w = true → decode (encode w i ++ rest) = .ok (i, rest)

/-- 30_encoding sections 1 to 4: words that decode are the encoding of the instruction read, which is well-formed, so each
sequence of words has one meaning and no bit of it is ignored. -/
def Obligations.DecodedWordsAreTheEncodingOfTheirInstruction : Prop :=
  ∀ (w : Nat) (ws : List (Word w)) (i : Instr) (rest : List (Word w)),
    decode ws = .ok (i, rest) → i.wf w = true ∧ ws = encode w i ++ rest

/-- 30_encoding R87: exactly 0x10, 0x11 and 0x14 up are illegal, no argument word is illegal at decode, and a Decode
tick that consumes an illegal opcode word raises Fatal in that tick, so the run ends by a fault. The ghost record of
that fault is the model's own (log 7; its label is the spec's decision D26). -/
def Obligations.ExactlyTheUnlistedOpcodesAreIllegal : Prop :=
  (∀ (w : Nat) (v : Word w) (rest : List (Word w)),
    decode (v :: rest) = .error .unknownOpcode ↔ v.toNat = 0x10 ∨ v.toNat = 0x11 ∨ 0x14 ≤ v.toNat) ∧
  (∀ (w : Nat) (v x y : Word w), ¬ (v.toNat = 0x10 ∨ v.toNat = 0x11 ∨ 0x14 ≤ v.toNat) →
    ∃ i rest, decode [v, x, y] = .ok (i, rest)) ∧
  (∀ (c : Config) (m : Mach c), m.terminated = false → m.pipelineState = .decode →
    (m.data.toNat = 0x10 ∨ m.data.toNat = 0x11 ∨ 0x14 ≤ m.data.toNat) →
    ∃ t : Mach c, cpuTick ⟨c, m⟩ = .next (⟨c, t⟩, true) ∧ State.endedByFault ⟨c, t⟩ ∧
      t = { m with
        commandCode := m.data, en := false, fatal := true, terminated := true, ghostCause := some .unknownOpcode })

/-- 30_encoding R88 (the spec's decision D30): CMP and JZ fit exactly the words of 5 bits and more, every other opcode fits
every machine's words, and no 4-bit word is an illegal opcode. -/
def Obligations.CmpAndJzNeedFiveBits : Prop :=
  (∀ (w : Nat) (x y : Nat), ((Instr.cmp x y).opcodeFits w = true ↔ 5 ≤ w) ∧ ((Instr.jz x).opcodeFits w = true ↔ 5 ≤ w)) ∧
  (∀ (c : Config) (i : Instr), (∀ x y, i ≠ .cmp x y) → (∀ x, i ≠ .jz x) → i.opcodeFits c.w = true) ∧
  (∀ (v : Word 4) (rest : List (Word 4)), decode (v :: rest) ≠ .error .unknownOpcode)

/-- Words written out from the spec's opcode map (30_encoding section 3) and its programs (95_test_vectors) decode to the
instructions they stand for. -/
def Obligations.SpecWordsDecodeToTheirInstructions : Prop :=
  decode [0x00#8] = .ok (.noop, []) ∧ decode [0x01#8] = .ok (.rst, []) ∧
  decode [0x03#8, 0x01#8] = .ok (.inc 1, []) ∧ decode [0x04#8, 0x00#8, 0x01#8] = .ok (.sum 0 1, []) ∧
  decode [0x06#8, 0x07#8] = .ok (.clra, [0x07#8]) ∧ decode [0x09#8, 0x01#8, 0x02#8] = .ok (.ld 1 2, []) ∧
  decode [0x0A#8, 0x02#8, 0x00#8] = .ok (.st 2 0, []) ∧ decode [0x0F#8, 0x0A#8] = .ok (.jmp 10, []) ∧
  decode [0x12#8, 0x01#8, 0x00#8] = .ok (.cmp 1 0, []) ∧ decode [0x13#8, 0x11#8] = .ok (.jz 17, []) ∧
  decode [0x83#8, 0x00#8] = .error .unknownOpcode

/-! ## Construction and the storage arrays -/

/-- 10_state section 6 (R41): every bit of CPU memory, the buses (the spec's decision D9, log 5) and every word of RAM
(the all-zero image, log 2) are 0 at reset. The configuration is the model's choice (log 2), and so is the ghost
record's value, none (log 7). -/
def Obligations.ResetStateIsAllZero : Prop :=
  State.reset.cfg = Config.default ∧ State.reset.mach.cpuImage = 0 ∧ State.reset.mach.pipelineState = .fetch ∧
  State.reset.mach.ctrlBus = 0 ∧ State.reset.mach.addr = 0 ∧ State.reset.mach.data = 0 ∧
  (∀ a, Ram.read State.reset.mach.ram a = 0) ∧ State.reset.mach.ghostCause = none

/-- 70_reset section 1 (R250): construction succeeds exactly when its three checks pass; the machine then has the given
parameters, CPU memory of zeros, idle buses (the spec's decision D9, log 5), the words of the image in RAM, and the
invariant (whose ghost clause is the model's, log 7). -/
def Obligations.ConstructionMakesTheThreeChecks : Prop :=
  ∀ (w cpuMemBits ramWords : Nat) (image : List (Word w)),
    ((∃ s, construct w cpuMemBits ramWords image = .ok s) ↔
      4 ≤ w ∧ 8 * w ≤ cpuMemBits ∧ image.length = ramWords) ∧
    (∀ s, construct w cpuMemBits ramWords image = .ok s →
      s.cfg.w = w ∧ s.cfg.cpuMemBits = cpuMemBits ∧ s.cfg.ramWords = ramWords ∧ s.mach.cpuImage = 0 ∧
        s.mach.ctrlBus = 0 ∧ s.mach.addr = 0 ∧ s.mach.data = 0 ∧ s.mach.Inv ∧
        ∀ a (h : a < image.length), (Ram.read s.mach.ram a).toNat = image[a].toNat)

/-- 10_state sections 1 to 3 (R21, R22, R26, R36; the slot numbers and bit positions are the spec's decisions D3 to D5 and
D7, log 6): each register and bit field stands in the bit array of CPU memory at its Reference. -/
def Obligations.CpuMemoryHoldsEveryFieldAtItsReference : Prop :=
  ∀ (c : Config) (m : Mach c),
    (∀ k, k < serviceRegisters + c.cnCount → m.readRef (slotRef c k) = m.slot k) ∧
    m.readRef ⟨0, 3⟩ = m.pipelineState.code ∧ m.readRef ⟨3, 1⟩ = BitVec.ofBool m.argumentMode ∧
    m.readRef ⟨4, c.w - 4⟩ = m.systemReserved ∧
    m.readRef ⟨4 * c.w, 1⟩ = BitVec.ofBool m.terminated ∧ m.readRef ⟨4 * c.w + 1, 1⟩ = BitVec.ofBool m.overflow ∧
    m.readRef ⟨4 * c.w + 2, 1⟩ = BitVec.ofBool m.fatal ∧ m.readRef ⟨4 * c.w + 3, 1⟩ = BitVec.ofBool m.zero ∧
    m.readRef ⟨4 * c.w + 4, c.w - 4⟩ = m.flagsReserved

/-- 10_state R35, 40_alu R106: the word slots are disjoint and lie inside CPU memory, and a write of one register is the
insert of its bit field into CPU memory, every other bit unchanged (slot numbers: the spec's decision D3). -/
def Obligations.RegisterWriteIsTheInsertOfItsBitField : Prop :=
  ∀ (c : Config),
    (∀ j k, j < k → k < serviceRegisters + c.cnCount → (slotRef c j).disjoint (slotRef c k)) ∧
    (∀ k, k < serviceRegisters + c.cnCount → (slotRef c k).address + (slotRef c k).width ≤ c.cpuMemBits) ∧
    (∀ (m : Mach c) (r : RegRef c) (v : Word c.w),
      (m.set r v).cpuImage = setBits m.cpuImage (slotRef c r.slotNumber).address v)

/-- 10_state R20 (the layout is the spec's decisions D3 to D8, log 6): the state held by field is the tuple of the
storage arrays: the arrays give the fields back, and every bit array of CPU memory and of the control bus is that of a
state. The ghost record beside the arrays is the model's own (log 7). -/
def Obligations.FieldsAndStorageArraysAreOneState : Prop :=
  ∀ (c : Config),
    (∀ m : Mach c, Mach.ofImage m.cpuImage m.ram m.ctrlBus m.addr m.data m.ghostCause = m) ∧
    (∀ (cpu : BitVec c.cpuMemBits) (ram : Ram c.w) (ctrl : BitVec 2) (addr data : Word c.w) (g : Option FatalCause),
      (Mach.ofImage cpu ram ctrl addr data g).cpuImage = cpu ∧ (Mach.ofImage cpu ram ctrl addr data g).ctrlBus = ctrl)

/-- 20_memory R50, R51 (bit order: the spec's decision D10): the word at address a is the RAM bits from a*W up. -/
def Obligations.RamWordStandsAtItsBitOffset : Prop :=
  ∀ (c : Config) (m : Mach c) (a : Nat), a < c.ramWords → getBits m.ramImage (a * c.w) c.w = Ram.read m.ram a

/-- The model's representation (log 3): two canonical RAMs with the same words are the same list. -/
def Obligations.CanonicalRamIsDeterminedByItsWords : Prop :=
  ∀ (w n : Nat) (r s : Ram w), Ram.wf n r = true → Ram.wf n s = true → (∀ a, Ram.read r a = Ram.read s a) → r = s

/-! ## The RAM responder and the buses -/

/-- 20_memory section 1 (R52, R54; the host error is the spec's decision D12, log 4): a RAM tick of a running machine does
nothing without a request, is a host error where ADDR is no word of RAM, and else writes DATA to the one word RAM[ADDR]
or reads that word into DATA. -/
def Obligations.RamTickServicesTheRequest : Prop :=
  ∀ (c : Config) (m : Mach c), m.terminated = false → Ram.wf c.ramWords m.ram = true →
    (m.en = false → tickRam ⟨c, m⟩ = .next (⟨c, m⟩, true)) ∧
    (m.en = true → c.ramWords ≤ m.addr.toNat → tickRam ⟨c, m⟩ = .fault .ramAddressOutOfRange) ∧
    (m.en = true → m.addr.toNat < c.ramWords → m.wr = true →
      ∃ ram, tickRam ⟨c, m⟩ = .next (⟨c, { m with ram := ram }⟩, true) ∧
        ∀ b, Ram.read ram b = if b = m.addr.toNat then m.data else Ram.read m.ram b) ∧
    (m.en = true → m.addr.toNat < c.ramWords → m.wr = false →
      tickRam ⟨c, m⟩ = .next (⟨c, { m with data := Ram.read m.ram m.addr.toNat }⟩, true))

/-- 20_memory R55: a request serviced twice leaves the state of one service. -/
def Obligations.ServicingARequestTwiceIsServicingItOnce : Prop :=
  ∀ (c : Config) (m t : Mach c), Ram.wf c.ramWords m.ram = true → m.terminated = false →
    tickRam ⟨c, m⟩ = .next (⟨c, t⟩, true) → tickRam ⟨c, t⟩ = .next (⟨c, t⟩, true)

/-- 10_state R40, 20_memory R58: no CPU tick changes RAM, and a step changes at most the word RAM[ADDR], to DATA, and
only when a write request is pending on a running machine. That a halted machine with a write pending leaves RAM alone
is the spec's decision D21 (log 15). -/
def Obligations.OnlyAServicedWriteChangesRam : Prop :=
  ∀ (c : Config) (m t : Mach c),
    (∀ b, cpuTick ⟨c, m⟩ = .next (⟨c, t⟩, b) → t.ram = m.ram) ∧
    (Ram.wf c.ramWords m.ram = true → step ⟨c, m⟩ = .next ⟨c, t⟩ →
      ∀ a, Ram.read t.ram a =
        if m.terminated = false ∧ m.en = true ∧ m.wr = true ∧ a = m.addr.toNat then m.data else Ram.read m.ram a)

/-! ## Halting -/

/-- 41_pipeline R130, R142, R144, 70_reset R259 (the guard of the RAM half is the spec's decision D21, log 15): no strobe
changes a halted machine, and no number of steps does. -/
def Obligations.HaltedMachineIsQuiescent : Prop :=
  ∀ (s : State), s.halted →
    tick s = .next (s, false) ∧ tickRam s = .next (s, false) ∧ tickCpu s = .next (s, false) ∧
      ∀ n, tickN n s = .next (s, false) ∧ run n s = .next s

/-- 10_state R27: Terminated is written to 1 by RST and by every raise, by nothing else, and to 0 by nothing; a CPU tick and
a sequencer tick that find it 1 change nothing; it is 0 at reset. -/
def Obligations.TerminatedIsStickyAndStopsEveryTick : Prop :=
  (∀ (c : Config) (m t : Mach c), exec .rst ⟨c, m⟩ = .next ⟨c, t⟩ → t.terminated = true) ∧
  (∀ (c : Config) (m : Mach c) (cause : FatalCause), (m.raiseFatal cause).terminated = true) ∧
  (∀ (c : Config) (m t : Mach c) (i : Instr), exec i ⟨c, m⟩ = .next ⟨c, t⟩ →
    (m.terminated = true → t.terminated = true) ∧
    (i ≠ .rst → t.terminated = true → m.terminated = true ∨ t.fatal = true)) ∧
  (∀ (c : Config) (m t : Mach c) (b : Bool), ∀ strobe ∈ [tick, tickRam, tickCpu], strobe ⟨c, m⟩ = .next (⟨c, t⟩, b) →
    (m.terminated = true → t.terminated = true) ∧
    (m.terminated = false → t.terminated = true →
      t.fatal = true ∨ (m.pipelineState = .execute1 ∧ m.commandCode.toNat = 0x01))) ∧
  (∀ s : State, s.mach.terminated = true → ∀ strobe ∈ [tick, tickCpu], strobe s = .next (s, false)) ∧
  State.reset.mach.terminated = false

/-- 10_state R28: Fatal is written to 1 together with Terminated by a raise, and to 0 by nothing; no instruction reads it; it
is 0 at reset. -/
def Obligations.FatalIsStickyAndReadByNoInstruction : Prop :=
  (∀ (c : Config) (m : Mach c) (cause : FatalCause),
    (m.raiseFatal cause).fatal = true ∧ (m.raiseFatal cause).terminated = true) ∧
  (∀ (c : Config) (m t : Mach c) (b : Bool), ∀ strobe ∈ [tick, tickRam, tickCpu], strobe ⟨c, m⟩ = .next (⟨c, t⟩, b) →
    (m.fatal = true → t.fatal = true) ∧ (m.fatal = false → t.fatal = true → t.terminated = true)) ∧
  (∀ (c : Config) (m t : Mach c) (i : Instr) (b : Bool), exec i ⟨c, m⟩ = .next ⟨c, t⟩ →
    ∃ u : Mach c, exec i ⟨c, { m with fatal := b }⟩ = .next ⟨c, u⟩ ∧ { u with fatal := t.fatal } = t) ∧
  State.reset.mach.fatal = false

/-- 10_state R29: every register add and subtract overwrites Overflow with its carry or borrow and halts nothing by it;
so do a commit's increments of Counter and IP, whatever Overflow was; no instruction reads it; it is 0 at reset. That
Overflow is 1 after a commit whose Counter carried, with IP not added, rests on what a faulting tick leaves, the spec's
decision D16 (log 13). -/
def Obligations.OverflowIsOverwrittenAndReadByNoInstruction : Prop :=
  (∀ (c : Config) (m : Mach c) (r : RegRef c) (v : Word c.w),
    (m.addToReg r v).1.overflow = (addW (m.get r) v).2 ∧ (m.subFromReg r v).1.overflow = (subW (m.get r) v).2 ∧
    (m.addToReg r v).1.terminated = m.terminated ∧ (m.subFromReg r v).1.terminated = m.terminated) ∧
  (∀ (c : Config) (m : Mach c) (n : Nat) (b : Bool),
    (m.commit n).overflow = ((addW m.counter (oneWord c.w)).2 || (addW m.ip (fromValue c.w n)).2) ∧
    Mach.commit { m with overflow := b } n = m.commit n) ∧
  (∀ (c : Config) (m t : Mach c) (i : Instr) (b : Bool), exec i ⟨c, m⟩ = .next ⟨c, t⟩ →
    ∃ u : Mach c, exec i ⟨c, { m with overflow := b }⟩ = .next ⟨c, u⟩ ∧ { u with overflow := t.overflow } = t) ∧
  State.reset.mach.overflow = false

/-- 10_state R30: Zero is written only by CMP, with the equality of its operands, and read only by JZ: two machines that
differ in Zero alone, and whose step runs no JZ, step to machines that differ at most in Zero; it is 0 at reset. -/
def Obligations.ZeroIsWrittenByCmpAndReadByJzOnly : Prop :=
  (∀ (c : Config) (m t : Mach c) (b : Bool), ∀ strobe ∈ [tick, tickRam, tickCpu], strobe ⟨c, m⟩ = .next (⟨c, t⟩, b) →
    t.zero = m.zero ∨ (m.pipelineState = .execute1 ∧ m.commandCode.toNat = 0x12)) ∧
  (∀ (c : Config) (m t : Mach c) (x y : Nat) (hx : x < c.cnCount) (hy : y < c.cnCount),
    exec (.cmp x y) ⟨c, m⟩ = .next ⟨c, t⟩ → t.zero = decide (m.cr[x] = m.cr[y])) ∧
  (∀ (c : Config) (m t : Mach c) (i : Instr) (b : Bool), (∀ x, i ≠ .jz x) → exec i ⟨c, m⟩ = .next ⟨c, t⟩ →
    ∃ u : Mach c, exec i ⟨c, { m with zero := b }⟩ = .next ⟨c, u⟩ ∧ { u with zero := t.zero } = t) ∧
  (∀ (c : Config) (m t : Mach c) (b : Bool), ¬ (m.pipelineState = .execute1 ∧ m.commandCode.toNat = 0x13) →
    step ⟨c, m⟩ = .next ⟨c, t⟩ →
    ∃ u : Mach c, step ⟨c, { m with zero := b }⟩ = .next ⟨c, u⟩ ∧ { u with zero := t.zero } = t) ∧
  State.reset.mach.zero = false

/-- 10_state R33: AR is written only by SUM, SUB, CLRA/RSTA, INCA, DECA, ADDA and SUBA, and it reaches nothing but AR: two
machines that differ in AR alone step to machines that differ at most in AR. -/
def Obligations.AccumulatorReachesOnlyItself : Prop :=
  (∀ (c : Config) (m t : Mach c) (b : Bool), ∀ strobe ∈ [tick, tickRam, tickCpu], strobe ⟨c, m⟩ = .next (⟨c, t⟩, b) →
    t.ar = m.ar ∨ (m.pipelineState = .execute1 ∧
      m.commandCode.toNat ∈ [0x04, 0x06, 0x07, 0x08, 0x0B, 0x0C, 0x0E])) ∧
  (∀ (c : Config) (m t : Mach c) (v : Word c.w), step ⟨c, m⟩ = .next ⟨c, t⟩ →
    ∃ u : Mach c, step ⟨c, { m with ar := v }⟩ = .next ⟨c, u⟩ ∧ { u with ar := t.ar } = t) ∧
  State.reset.mach.ar = 0

/-- 10_state R43 (the ghost record is the model's, log 7): no rule reads the ghost record. -/
def Obligations.GhostRecordIsReadByNothing : Prop :=
  ∀ (c : Config) (m t : Mach c) (g : Option FatalCause), step ⟨c, m⟩ = .next ⟨c, t⟩ →
    ∃ u : Mach c, step ⟨c, { m with ghostCause := g }⟩ = .next ⟨c, u⟩ ∧ { u with ghostCause := t.ghostCause } = t

/-! ## The pipeline -/

/-- 41_pipeline R131: a CPU tick past its guard clears EN before anything else, so what EN was has no effect, and EN is 1
after the tick only by a request of that tick; WR, ADDR and DATA are not cleared: where no request was issued, they are as
before. -/
def Obligations.CpuTickClearsEnableFirst : Prop :=
  ∀ (c : Config) (m : Mach c), m.terminated = false →
    cpuTick ⟨c, m⟩ = cpuTick ⟨c, { m with en := false }⟩ ∧
    (∀ (t : Mach c) (b : Bool), cpuTick ⟨c, m⟩ = .next (⟨c, t⟩, b) →
      (t.en = true → m.pipelineState ∈ [PipelineState.fetch, .decode, .read1] ∨
        (m.pipelineState = .execute1 ∧ m.commandCode.toNat ∈ [0x09, 0x0A])) ∧
      (t.en = false → t.wr = m.wr ∧ t.addr = m.addr ∧ t.data = m.data))

/-- 41_pipeline R142 (its guard is the spec's decision D21): a paired tick of a running machine is its RAM half, then its
CPU half, and a host error of the RAM half ends it. -/
def Obligations.PairedTickRunsTheRamHalfFirst : Prop :=
  ∀ (s : State), ¬ s.halted →
    (∀ t b, tickRam s = .next (t, b) → tick s = tickCpu t) ∧ (∀ f, tickRam s = .fault f → tick s = .fault f)

/-- 41_pipeline R143: `tick(n)` has the state effect of n paired ticks, and for n ≥ 1 answers false exactly when it found
the machine halted. -/
def Obligations.TickNHasTheEffectOfNTicks : Prop :=
  ∀ (n : Nat) (s : State),
    (∀ t b, tickN n s = .next (t, b) → run n s = .next t) ∧ (∀ t, run n s = .next t → ∃ b, tickN n s = .next (t, b)) ∧
    (∀ t b, tickN (n + 1) s = .next (t, b) → (b = false ↔ ∃ u, run n s = .next u ∧ u.halted))

/-- 41_pipeline section 1 (R133; the host error is the spec's decision D12): Fetch clears the decode scratch registers,
requests RAM[IP] and advances to Decode, never faults, and an IP beyond RAM is a host error of the next tick. -/
def Obligations.FetchClearsScratchAndRequestsTheOpcode : Prop :=
  ∀ (c : Config) (m : Mach c), m.terminated = false → m.pipelineState = .fetch →
    ∃ t : Mach c, t = { m with
        pipelineState := .decode, argumentMode := false, commandCode := 0, arg1 := 0, arg2 := 0
        en := true, wr := false, addr := m.ip } ∧
      cpuTick ⟨c, m⟩ = .next (⟨c, t⟩, true) ∧
      (c.ramWords ≤ m.ip.toNat → tick ⟨c, t⟩ = .fault .ramAddressOutOfRange)

/-- 41_pipeline section 1 (R134; the argument address fault is R141, the spec's decision D15, log 12): Decode consumes
DATA into CommandCode; an opcode without arguments goes to Execute1, one with arguments requests RAM[IP + 1], and a
carry of IP + 1 is fatal, with no request and Overflow not written. That CommandCode and ArgumentMode, written before
that raise, stay is the spec's decision D16 (log 13); the ghost record of the fault is the model's own (log 7, D26). -/
def Obligations.DecodeConsumesTheOpcode : Prop :=
  ∀ (c : Config) (m : Mach c) (row : OpcodeRow),
    m.terminated = false → m.pipelineState = .decode → lookup m.data.toNat = some row →
    (row.arity = 0 →
      cpuTick ⟨c, m⟩ = .next (⟨c, { m with commandCode := m.data, en := false, pipelineState := .execute1 }⟩, true)) ∧
    (row.arity ≠ 0 → m.ip.toNat + 1 < 2 ^ c.w →
      cpuTick ⟨c, m⟩ = .next (⟨c, { m with
        commandCode := m.data, argumentMode := decide (row.arity = 2), en := true, wr := false
        addr := m.ip + oneWord c.w, pipelineState := .read1 }⟩, true)) ∧
    (row.arity ≠ 0 → m.ip.toNat + 1 = 2 ^ c.w →
      cpuTick ⟨c, m⟩ = .next (⟨c, { m with
        commandCode := m.data, argumentMode := decide (row.arity = 2), en := false, fatal := true, terminated := true
        ghostCause := some .argAddressOverflow }⟩, true))

/-- 41_pipeline section 1 (R135; R141 is the spec's decision D15, log 12): Read1 consumes DATA into Arg1 and goes to
Execute1, or with ArgumentMode requests RAM[IP + 2] and goes to Read2; a carry of IP + 2 is fatal. That Arg1, written
before that raise, stays is the spec's decision D16 (log 13); the ghost record of the fault is the model's own (log 7,
D26). -/
def Obligations.Read1ConsumesTheFirstArgument : Prop :=
  ∀ (c : Config) (m : Mach c), m.terminated = false → m.pipelineState = .read1 →
    (m.argumentMode = false →
      cpuTick ⟨c, m⟩ = .next (⟨c, { m with arg1 := m.data, en := false, pipelineState := .execute1 }⟩, true)) ∧
    (m.argumentMode = true → m.ip.toNat + 2 < 2 ^ c.w →
      cpuTick ⟨c, m⟩ = .next (⟨c, { m with
        arg1 := m.data, en := true, wr := false, addr := m.ip + fromValue c.w 2, pipelineState := .read2 }⟩, true)) ∧
    (m.argumentMode = true → 2 ^ c.w ≤ m.ip.toNat + 2 →
      cpuTick ⟨c, m⟩ = .next (⟨c, { m with
        arg1 := m.data, en := false, fatal := true, terminated := true
        ghostCause := some .argAddressOverflow }⟩, true))

/-- 41_pipeline R136: Read2 consumes DATA into Arg2 and advances to Execute1. -/
def Obligations.Read2ConsumesTheSecondArgument : Prop :=
  ∀ (c : Config) (m : Mach c), m.terminated = false → m.pipelineState = .read2 →
    cpuTick ⟨c, m⟩ = .next (⟨c, { m with arg2 := m.data, en := false, pipelineState := .execute1 }⟩, true)

/-- 41_pipeline section 1 (R137 to R139; the host-built cases of R137 and R138 are the spec's decision D24, log 9): an
unknown opcode in Execute1, a non-LD opcode in Execute2 and the pipeline states 6 and 7 are fatal, and nothing else of
the hardware's state changes beyond EN. The ghost record of the fault is the model's own (log 7, D26). -/
def Obligations.StatesNoRuleWritesAreFatal : Prop :=
  ∀ (c : Config) (m : Mach c), m.terminated = false →
    (m.pipelineState = .invalid6 ∨ m.pipelineState = .invalid7 ∨
        (m.pipelineState = .execute2 ∧ m.commandCode.toNat ≠ 0x09) →
      cpuTick ⟨c, m⟩ = .next (⟨c, { m with
        en := false, fatal := true, terminated := true, ghostCause := some .badPipelineState }⟩, true)) ∧
    (m.pipelineState = .execute1 → lookup m.commandCode.toNat = none →
      cpuTick ⟨c, m⟩ = .next (⟨c, { m with
        en := false, fatal := true, terminated := true, ghostCause := some .unknownOpcode }⟩, true))

/-- 41_pipeline section 1 (R137, R138, R142): a step of a running machine in Execute1 whose scratch registers decode to `i`
is `exec i` on the state that the RAM half leaves, with EN cleared; in Execute2 with LD's opcode it is `exec` of that
LD. -/
def Obligations.StepRunsTheDecodedInstruction : Prop :=
  ∀ (c : Config) (m t : Mach c), m.terminated = false → m.serviceRequest = some t →
    (∀ i rest, m.pipelineState = .execute1 → decode m.scratch = .ok (i, rest) →
      step ⟨c, m⟩ = exec i ⟨c, { t with en := false }⟩) ∧
    (m.pipelineState = .execute2 → m.commandCode.toNat = 0x09 →
      step ⟨c, m⟩ = exec (.ld m.arg1.toNat m.arg2.toNat) ⟨c, { t with en := false }⟩)

/-- 41_pipeline sections 1 and 3 (R133 to R137, R148): from Fetch, with the words of a well-formed instruction in RAM at IP
once a pending store has landed, 2 + arity ticks bring the machine to Execute1 with exactly these words in the scratch
registers and nothing else of the program's state changed, and the next tick runs the instruction. -/
def Obligations.FetchedWordsReachTheirHandler : Prop :=
  ∀ (c : Config) (m t : Mach c) (i : Instr), m.terminated = false → m.pipelineState = .fetch →
    m.serviceRequest = some t → i.wf c.w = true → t.holds m.ip.toNat (encode c.w i) →
    ∃ u : Mach c,
      u = t.fetched (fromValue c.w i.opcode) (fromValue c.w (i.operands.getD 0 0)) (fromValue c.w (i.operands.getD 1 0)) ∧
      run (2 + i.arity) ⟨c, m⟩ = .next ⟨c, u⟩ ∧ run (3 + i.arity) ⟨c, m⟩ = exec i ⟨c, u⟩ ∧
      u.pipelineState = .execute1 ∧ u.commandCode.toNat = i.opcode ∧ u.en = false ∧ u.ip = m.ip ∧
      u.counter = m.counter ∧ u.ar = m.ar ∧ u.cr = m.cr ∧ u.zero = m.zero ∧ u.ram = t.ram

/-- 41_pipeline section 3 (R148, R149; LD's count is the spec's resolution C2): an instruction in RAM at IP takes 3, 4, 5 or
(LD) 6 ticks; before the last of them the pipeline is not in Fetch and neither IP nor Counter has moved, and after it the
instruction has committed or faulted. -/
def Obligations.InstructionTakesItsTicks : Prop :=
  ∀ (c : Config) (m t : Mach c) (i : Instr), m.terminated = false → m.fatal = false → m.pipelineState = .fetch →
    m.serviceRequest = some t → i.wf c.w = true → t.holds m.ip.toNat (encode c.w i) →
    (∀ k u, 0 < k → k < instrTicks i → run k ⟨c, m⟩ = .next ⟨c, u⟩ →
      u.pipelineState ≠ .fetch ∧ u.ip = m.ip ∧ u.counter = m.counter) ∧
    (∀ u, run (instrTicks i) ⟨c, m⟩ = .next ⟨c, u⟩ →
      u.fatal = true ∨ (u.pipelineState = .fetch ∧ u.counter.toNat = m.counter.toNat + 1)) ∧
    ((∀ x y, i ≠ .ld x y) → ∃ u, run (instrTicks i) ⟨c, m⟩ = .next ⟨c, u⟩) ∧
    (∀ x y (hx : x < c.cnCount), i = .ld x y → m.cr[x].toNat < c.ramWords →
      ∃ u, run (instrTicks i) ⟨c, m⟩ = .next ⟨c, u⟩)

/-! ## The instructions: what each one leaves when it completes

Each conclusion is the whole next state, so it says the result, that the instruction completes, and that nothing else
changes. The commit's part (`Mach.committed`) rests on the spec's decisions D14 and D17 (logs 11 and 14). -/

/-- 42_control: NOOP only commits, and clears an Overflow set before it; RST sets Terminated and commits, its state is a
normal end, and the next tick answers false and changes nothing. -/
def Obligations.NoopOnlyCommitsAndRstHaltsNormally : Prop :=
  ∀ (c : Config) (m : Mach c), m.canCommit 1 →
    exec .noop ⟨c, m⟩ = .next ⟨c, m.committed 1⟩ ∧
    exec .rst ⟨c, m⟩ = .next ⟨c, Mach.committed { m with terminated := true } 1⟩ ∧
    (m.fatal = false → State.endedNormally ⟨c, Mach.committed { m with terminated := true } 1⟩) ∧
    tick ⟨c, Mach.committed { m with terminated := true } 1⟩ =
      .next (⟨c, Mach.committed { m with terminated := true } 1⟩, false)

/-- 43_register: CLR makes CR[x] 0, INC and DEC make it CR[x] + 1 and CR[x] - 1 mod 2^W, MOV makes it CR[y]; a wrap is no
fault, and Overflow is 0 after the commit (the wrap of DEC is the spec's general knowledge GK2, log 10). -/
def Obligations.RegisterInstructionsWriteTheirRegister : Prop :=
  ∀ (c : Config) (m : Mach c) (x : Nat) (hx : x < c.cnCount),
    (m.canCommit 2 →
      exec (.clr x) ⟨c, m⟩ = .next ⟨c, Mach.committed { m with cr := m.cr.set x 0 } 2⟩ ∧
      exec (.inc x) ⟨c, m⟩ = .next ⟨c, Mach.committed { m with cr := m.cr.set x (m.cr[x] + oneWord c.w) } 2⟩ ∧
      exec (.dec x) ⟨c, m⟩ = .next ⟨c, Mach.committed { m with cr := m.cr.set x (m.cr[x] - oneWord c.w) } 2⟩) ∧
    (∀ y (hy : y < c.cnCount), m.canCommit 3 →
      exec (.mov x y) ⟨c, m⟩ = .next ⟨c, Mach.committed { m with cr := m.cr.set x m.cr[y] } 3⟩)

/-- 44_accumulator (CLRA/RSTA, INCA, DECA, ADDA, SUBA): AR becomes 0, AR + 1, AR - 1, AR + CR[x] or AR - CR[x] mod 2^W (the
wrap of DECA and SUBA is the spec's general knowledge GK2, log 10). -/
def Obligations.AccumulatorInstructionsAccumulate : Prop :=
  ∀ (c : Config) (m : Mach c),
    (m.canCommit 1 →
      exec .clra ⟨c, m⟩ = .next ⟨c, Mach.committed { m with ar := 0 } 1⟩ ∧
      exec .inca ⟨c, m⟩ = .next ⟨c, Mach.committed { m with ar := m.ar + oneWord c.w } 1⟩ ∧
      exec .deca ⟨c, m⟩ = .next ⟨c, Mach.committed { m with ar := m.ar - oneWord c.w } 1⟩) ∧
    (∀ x (hx : x < c.cnCount), m.canCommit 2 →
      exec (.adda x) ⟨c, m⟩ = .next ⟨c, Mach.committed { m with ar := m.ar + m.cr[x] } 2⟩ ∧
      exec (.suba x) ⟨c, m⟩ = .next ⟨c, Mach.committed { m with ar := m.ar - m.cr[x] } 2⟩)

/-- 44_accumulator (SUM, SUB): AR becomes CR[x] + CR[y] or CR[x] - CR[y] mod 2^W, whatever AR held; no tick boundary
shows their carry (the order of their operations is the spec's decision D33, log 16; SUB's wrap: GK2, log 10). -/
def Obligations.SumAndSubWriteTheAccumulator : Prop :=
  ∀ (c : Config) (m : Mach c) (x y : Nat) (hx : x < c.cnCount) (hy : y < c.cnCount), m.canCommit 3 →
    exec (.sum x y) ⟨c, m⟩ = .next ⟨c, Mach.committed { m with ar := m.cr[x] + m.cr[y] } 3⟩ ∧
    exec (.sub x y) ⟨c, m⟩ = .next ⟨c, Mach.committed { m with ar := m.cr[x] - m.cr[y] } 3⟩

/-- 45_load_store (LD, both phases): phase 1 requests RAM[CR[x]] and goes to Execute2 without a commit; phase 2 takes DATA
into CR[y] and commits (the model's choice of phase by the pipeline state: log 9). -/
def Obligations.LdRequestsThenConsumes : Prop :=
  ∀ (c : Config) (m : Mach c) (x y : Nat),
    (∀ hx : x < c.cnCount, m.pipelineState ≠ .execute2 →
      exec (.ld x y) ⟨c, m⟩ = .next ⟨c, { m with
        en := true, wr := false, addr := m.cr[x], pipelineState := .execute2 }⟩) ∧
    (∀ hy : y < c.cnCount, m.pipelineState = .execute2 → m.canCommit 3 →
      exec (.ld x y) ⟨c, m⟩ = .next ⟨c, Mach.committed { m with cr := m.cr.set y m.data } 3⟩)

/-- 45_load_store (LD), 20_memory R61: from Execute1 with `LD x y` decoded and nothing pending, two ticks leave RAM[CR[x]],
the address taken before the load, in CR[y]; after the first of them CR[y] is unchanged. -/
def Obligations.LdLoadsItsWordInTwoTicks : Prop :=
  ∀ (c : Config) (m : Mach c) (x y : Nat) (hx : x < c.cnCount) (hy : y < c.cnCount) (rest : List (Word c.w)),
    m.terminated = false → m.pipelineState = .execute1 → m.en = false → decode m.scratch = .ok (.ld x y, rest) →
    m.cr[x].toNat < c.ramWords → m.canCommit 3 →
    (∃ t : Mach c, run 1 ⟨c, m⟩ = .next ⟨c, t⟩ ∧ t.cr = m.cr ∧ t.pipelineState = .execute2) ∧
    run 2 ⟨c, m⟩ = .next ⟨c, Mach.committed { m with
      cr := m.cr.set y (Ram.read m.ram m.cr[x].toNat), en := false, wr := false, addr := m.cr[x]
      data := Ram.read m.ram m.cr[x].toNat } 3⟩

/-- 45_load_store (ST): it puts the write of CR[x] at address CR[y] on the buses and commits in the same tick; RAM is not
changed by it. -/
def Obligations.StRequestsItsWriteAndCommits : Prop :=
  ∀ (c : Config) (m : Mach c) (x y : Nat) (hx : x < c.cnCount) (hy : y < c.cnCount), m.canCommit 3 →
    exec (.st x y) ⟨c, m⟩ = .next ⟨c, Mach.committed { m with
      en := true, wr := true, addr := m.cr[y], data := m.cr[x] } 3⟩

/-- 45_load_store (ST), 20_memory R62: from Execute1 with `ST x y` decoded and nothing pending, RAM is unchanged after the
first tick, and after the second the word at CR[y] is CR[x] and every other word is as before. -/
def Obligations.StLandsInTheNextTick : Prop :=
  ∀ (c : Config) (m : Mach c) (x y : Nat) (hx : x < c.cnCount) (hy : y < c.cnCount) (rest : List (Word c.w)),
    m.terminated = false → m.pipelineState = .execute1 → m.en = false → decode m.scratch = .ok (.st x y, rest) →
    Ram.wf c.ramWords m.ram = true → m.cr[y].toNat < c.ramWords → m.canCommit 3 →
    ∃ t u : Mach c, run 1 ⟨c, m⟩ = .next ⟨c, t⟩ ∧ t.ram = m.ram ∧ run 2 ⟨c, m⟩ = .next ⟨c, u⟩ ∧
      ∀ a, Ram.read u.ram a = if a = m.cr[y].toNat then m.cr[x] else Ram.read m.ram a

/-- 20_memory R65: a ST to the address of the next instruction is seen by its fetch: three ticks from the ST's Execute1, the
Decode that follows has the stored word in CommandCode. -/
def Obligations.StIsSeenByTheNextFetch : Prop :=
  ∀ (c : Config) (m : Mach c) (x y : Nat) (hx : x < c.cnCount) (hy : y < c.cnCount) (rest : List (Word c.w)),
    m.terminated = false → m.pipelineState = .execute1 → m.en = false → decode m.scratch = .ok (.st x y, rest) →
    Ram.wf c.ramWords m.ram = true → m.canCommit 3 → m.cr[y] = m.ip + fromValue c.w 3 → m.cr[y].toNat < c.ramWords →
    ∃ t : Mach c, run 3 ⟨c, m⟩ = .next ⟨c, t⟩ ∧ t.commandCode = m.cr[x]

/-- 46_compare_branch (JMP; the order is the spec's decision D18, log 14): IP becomes the target and Counter increments,
for every target, with no fault from IP. -/
def Obligations.JmpSetsIpToItsTarget : Prop :=
  ∀ (c : Config) (m : Mach c) (x : Nat), x < 2 ^ c.w → m.counter.toNat + 1 < 2 ^ c.w →
    exec (.jmp x) ⟨c, m⟩ = .next ⟨c, m.jumped (fromValue c.w x)⟩ ∧ (m.jumped (fromValue c.w x)).ip.toNat = x

/-- 46_compare_branch (CMP; that it writes no Overflow is the spec's decision D19, log 16): Zero becomes the equality of
the two registers, and the instruction commits. -/
def Obligations.CmpSetsZeroToEquality : Prop :=
  ∀ (c : Config) (m : Mach c) (x y : Nat) (hx : x < c.cnCount) (hy : y < c.cnCount), m.canCommit 3 →
    exec (.cmp x y) ⟨c, m⟩ = .next ⟨c, Mach.committed { m with zero := decide (m.cr[x] = m.cr[y]) } 3⟩

/-- 46_compare_branch (JZ): with Zero it jumps to its target, without Zero it commits past its two words; it does not clear
Zero (the jump's order: the spec's decision D18, log 14). -/
def Obligations.JzJumpsExactlyOnZero : Prop :=
  ∀ (c : Config) (m : Mach c) (x : Nat), x < 2 ^ c.w →
    (m.zero = true → m.counter.toNat + 1 < 2 ^ c.w →
      exec (.jz x) ⟨c, m⟩ = .next ⟨c, m.jumped (fromValue c.w x)⟩ ∧ (m.jumped (fromValue c.w x)).ip.toNat = x) ∧
    (m.zero = false → m.canCommit 2 → exec (.jz x) ⟨c, m⟩ = .next ⟨c, m.committed 2⟩)

/-! ## The instructions: where they fault -/

/-- 10_state R34, 40_alu R115 (the order of the checks is the spec's decision D20, log 13): an index at or beyond
CN_COUNT sets Fatal and Terminated before the phase writes anything else. The ghost record of the fault is the model's
own (log 7, D26). -/
def Obligations.BadRegisterIndexFaultsBeforeAnyWrite : Prop :=
  ∀ (c : Config) (m : Mach c) (x y : Nat),
    (¬ x < c.cnCount → ∀ i ∈ [Instr.clr x, .inc x, .dec x, .adda x, .suba x],
      exec i ⟨c, m⟩ = .next ⟨c, { m with fatal := true, terminated := true, ghostCause := some .registerIndex }⟩) ∧
    (¬ (x < c.cnCount ∧ y < c.cnCount) → ∀ i ∈ [Instr.sum x y, .mov x y, .st x y, .sub x y, .cmp x y],
      exec i ⟨c, m⟩ = .next ⟨c, { m with fatal := true, terminated := true, ghostCause := some .registerIndex }⟩) ∧
    ((m.pipelineState ≠ .execute2 ∧ ¬ x < c.cnCount) ∨ (m.pipelineState = .execute2 ∧ ¬ y < c.cnCount) →
      exec (.ld x y) ⟨c, m⟩ =
        .next ⟨c, { m with fatal := true, terminated := true, ghostCause := some .registerIndex }⟩)

/-- 40_alu R112, R113, 60_exceptions R221 (what a faulting tick leaves is the spec's decision D16, log 13; that a jump
counts before it moves IP is D18, log 14): with Counter full, every handler that commits or jumps wraps Counter to 0,
sets Overflow, Fatal and Terminated, and leaves IP and the pipeline state; what the handler itself wrote in that tick
stays (where that is a difference that borrows, its value is the spec's general knowledge GK2, log 10). -/
def Obligations.FullCounterFaultsEveryCommit : Prop :=
  ∀ (c : Config) (m : Mach c) (i : Instr), m.counter.toNat + 1 = 2 ^ c.w → m.commits i →
    (∀ x ∈ registersOf i, x < c.cnCount) →
    ∃ t : Mach c, exec i ⟨c, m⟩ = .next ⟨c, t⟩ ∧ t.fatal = true ∧ t.terminated = true ∧ t.overflow = true ∧
      t.counter = 0 ∧ t.ip = m.ip ∧ t.pipelineState = m.pipelineState ∧ m.handlerWrote t i

/-- 40_alu R111, R113, 60_exceptions R221 (the spec's decisions D14 and D16, logs 11 and 13): where IP + length carries
out of W bits, every handler that commits and does not jump increments Counter, wraps IP, sets Overflow, Fatal and
Terminated, and leaves the pipeline state; what the handler itself wrote in that tick stays (where that is a difference
that borrows, its value is the spec's general knowledge GK2, log 10). -/
def Obligations.IpCarryFaultsEveryCommit : Prop :=
  ∀ (c : Config) (m : Mach c) (i : Instr), m.counter.toNat + 1 < 2 ^ c.w → 2 ^ c.w ≤ m.ip.toNat + i.length →
    m.commits i → ¬ m.jumps i → (∀ x ∈ registersOf i, x < c.cnCount) →
    ∃ t : Mach c, exec i ⟨c, m⟩ = .next ⟨c, t⟩ ∧ t.fatal = true ∧ t.terminated = true ∧ t.overflow = true ∧
      t.counter.toNat = m.counter.toNat + 1 ∧ t.ip.toNat = m.ip.toNat + i.length - 2 ^ c.w ∧
      t.pipelineState = m.pipelineState ∧ m.handlerWrote t i

/-- 45_load_store (R202), 41_pipeline R142 (the spec's decisions D14, D16 and D21, logs 11, 13 and 15): where the
commit of a ST faults, on Counter or on IP, its write request stays on the buses, and no step ever performs it. -/
def Obligations.PendingStoreOfAFaultNeverLands : Prop :=
  ∀ (c : Config) (m t : Mach c) (x y : Nat) (hx : x < c.cnCount) (hy : y < c.cnCount),
    m.counter.toNat + 1 = 2 ^ c.w ∨ 2 ^ c.w ≤ m.ip.toNat + 3 → exec (.st x y) ⟨c, m⟩ = .next ⟨c, t⟩ →
    t.fatal = true ∧ t.en = true ∧ t.wr = true ∧ t.addr = m.cr[y] ∧ t.data = m.cr[x] ∧
      ∀ n, run n ⟨c, t⟩ = .next ⟨c, t⟩ ∧ t.ram = m.ram

/-! ## Frames -/

/-- 43_register, 10_state R35: CLR, INC, MOV and DEC leave everything but CR[x], Counter, IP, Overflow and the pipeline
state, and set Fatal and Terminated only by a fault. -/
def Obligations.RegisterInstructionsChangeOnlyTheirRegister : Prop :=
  ∀ (c : Config) (m t : Mach c) (x y : Nat), ∀ i ∈ [Instr.clr x, .inc x, .mov x y, .dec x],
    exec i ⟨c, m⟩ = .next ⟨c, t⟩ →
    m.keepsRegisters t (fun j => j = x) ∧ t.ar = m.ar ∧ t.zero = m.zero ∧ m.keepsScratch t ∧ m.keepsBuses t ∧
      m.keepsRam t ∧ m.keepsHaltFlags t

/-- 44_accumulator, 10_state R35: SUM, CLRA/RSTA, INCA, ADDA, SUB, SUBA and DECA leave everything but AR, Counter, IP,
Overflow and the pipeline state, and set Fatal and Terminated only by a fault. -/
def Obligations.AccumulatorInstructionsChangeOnlyTheAccumulator : Prop :=
  ∀ (c : Config) (m t : Mach c) (x y : Nat),
    ∀ i ∈ [Instr.sum x y, .clra, .inca, .adda x, .sub x y, .suba x, .deca], exec i ⟨c, m⟩ = .next ⟨c, t⟩ →
    m.keepsRegisters t (fun _ => False) ∧ t.zero = m.zero ∧ m.keepsScratch t ∧ m.keepsBuses t ∧ m.keepsRam t ∧
      m.keepsHaltFlags t

/-- 42_control, 46_compare_branch, 10_state R35: NOOP, RST, JMP, CMP and JZ leave everything but Counter, IP, Overflow and
the pipeline state, RST's Terminated and CMP's Zero, and set Fatal only by a fault. -/
def Obligations.ControlInstructionsChangeNoRegister : Prop :=
  ∀ (c : Config) (m t : Mach c) (x y : Nat), ∀ i ∈ [Instr.noop, .rst, .jmp x, .cmp x y, .jz x],
    exec i ⟨c, m⟩ = .next ⟨c, t⟩ →
    m.keepsRegisters t (fun _ => False) ∧ t.ar = m.ar ∧ (i ≠ .cmp x y → t.zero = m.zero) ∧ m.keepsScratch t ∧
      m.keepsBuses t ∧ m.keepsRam t ∧ (i ≠ .rst → m.keepsHaltFlags t) ∧
      (i = .rst → t.fatal = m.fatal ∨ (t.fatal = true ∧ t.terminated = true))

/-- 45_load_store, 10_state R35, 40_alu R118: LD's first phase changes nothing but EN, WR, ADDR and the pipeline state, its
second phase nothing but CR[y], Counter, IP, Overflow and the pipeline state; ST changes no register, and of the buses
what its request writes; neither changes RAM; Fatal and Terminated are set only by a fault. The address that ST's request
stores to is CR[y]. -/
def Obligations.LoadAndStoreChangeOnlyTheirTargets : Prop :=
  ∀ (c : Config) (m t : Mach c) (x y : Nat),
    (exec (.ld x y) ⟨c, m⟩ = .next ⟨c, t⟩ →
      m.keepsRegisters t (fun j => m.pipelineState = .execute2 ∧ j = y) ∧ t.ar = m.ar ∧ t.zero = m.zero ∧
        m.keepsScratch t ∧ m.keepsRam t ∧ m.keepsHaltFlags t ∧ t.data = m.data ∧
        (m.pipelineState ≠ .execute2 → t.counter = m.counter ∧ t.ip = m.ip ∧ t.overflow = m.overflow) ∧
        (m.pipelineState = .execute2 → m.keepsBuses t)) ∧
    (exec (.st x y) ⟨c, m⟩ = .next ⟨c, t⟩ →
      m.keepsRegisters t (fun _ => False) ∧ t.ar = m.ar ∧ t.zero = m.zero ∧ m.keepsScratch t ∧ m.keepsRam t ∧
        m.keepsHaltFlags t ∧
        (m.keepsBuses t ∨ ∃ (hx : x < c.cnCount) (hy : y < c.cnCount),
          t.en = true ∧ t.wr = true ∧ t.addr = m.cr[y] ∧ t.data = m.cr[x]))

/-! ## Invariants and whole runs -/

/-- 00_scope R8 to R11: no step changes the construction parameters. -/
def Obligations.StepKeepsTheParameters : Prop := ∀ (s t : State), step s = .next t → t.cfg = s.cfg

/-- 10_state R41: the invariant holds of the reset state. Its configuration and its RAM image are the model's choice
(log 2), EN = 0, which the clause on Fetch needs, is the spec's decision D9 (log 5), and the ghost clause is the
model's (log 7). -/
def Obligations.ResetStateHasTheInvariant : Prop := State.reset.mach.Inv

/-- 40_alu R116, 41_pipeline R139, R147, 10_state R25, R36, 20_memory R66 (the ghost clause is the model's, log 7): every
step keeps the invariant: RAM canonical, Fatal only with Terminated, Overflow 0 unless a fault, one of the six pipeline
states, each with the scratch registers and the pending request that belong to it. -/
def Obligations.StepKeepsTheInvariant : Prop :=
  ∀ (c : Config) (m t : Mach c), m.Inv → step ⟨c, m⟩ = .next ⟨c, t⟩ → t.Inv

/-- 60_exceptions R236: from every state, the run halts or stops with a host error (the spec's decision D12, log 4)
within 6 * 2^W ticks. -/
def Obligations.EveryRunEnds : Prop :=
  ∀ (s : State), ∃ n, n ≤ 6 * 2 ^ s.cfg.w ∧
    ((∃ t, run n s = .next t ∧ t.halted) ∨ run n s = .fault .ramAddressOutOfRange)
end

