-- ==== Sys2Proof/Laws/Bits.lean ====
section
/-! SUPPORT. The bits that the bit builders and the ALU's chains make. -/

namespace Sys2Proof.Machine

/-- Bit i of `bitsOf n f` is `f i`. -/
@[simp] theorem getLsbD_bitsOf (n : Nat) (f : Nat → Bool) (i : Nat) :
    (bitsOf n f).getLsbD i = (decide (i < n) && f i) := by
  induction n with
  | zero => simp [bitsOf]
  | succ n ih =>
    rw [bitsOf, BitVec.getLsbD_cons, ih]
    by_cases h : i = n
    · simp [h]
    · have : i < n ↔ i < n + 1 := by omega
      simp [h, this]

/-- Bit i of `bitsOf n f` is `f i`, for an index in range. -/
@[simp] theorem getElem_bitsOf (n : Nat) (f : Nat → Bool) (i : Nat) (h : i < n) : (bitsOf n f)[i] = f i := by
  rw [← BitVec.getLsbD_eq_getElem h, getLsbD_bitsOf]
  simp [h]

/-- A word is the word of its own bits. -/
theorem bitsOf_getLsbD {n : Nat} (v : BitVec n) : bitsOf n (fun i => v.getLsbD i) = v := by
  apply BitVec.eq_of_getLsbD_eq
  intro i hi
  simp [hi]

/-- Bit i of a bit-field extract (40_alu R106). -/
@[simp] theorem getLsbD_getBits {n : Nat} (v : BitVec n) (offset width i : Nat) :
    (getBits v offset width).getLsbD i = (decide (i < width) && v.getLsbD (offset + i)) := by
  simp [getBits]

/-- Bit i of a bit-field extract, for an index in range. -/
@[simp] theorem getElem_getBits {n : Nat} (v : BitVec n) (offset width i : Nat) (h : i < width) :
    (getBits v offset width)[i] = v.getLsbD (offset + i) := by
  simp [getBits]

/-- Bit i of a bit-field insert (40_alu R106). -/
@[simp] theorem getLsbD_setBits {n width : Nat} (v : BitVec n) (offset : Nat) (value : BitVec width) (i : Nat) :
    (setBits v offset value).getLsbD i =
      (decide (i < n) && if offset ≤ i ∧ i < offset + width then value.getLsbD (i - offset) else v.getLsbD i) := by
  simp [setBits]

/-- The ALU's carry chain is the carry of unsigned addition of the low i bits. -/
theorem carryInto_eq_carry {w : Nat} (a b : Word w) (i : Nat) : carryInto a b i = BitVec.carry i a b false := by
  induction i with
  | zero => simp [carryInto, BitVec.carry, Nat.mod_one]
  | succ i ih =>
    rw [carryInto, BitVec.carry_succ, ← ih]
    simp [majority, Bool.atLeastTwo]

/-- The ALU's borrow chain compares the low i bits. -/
theorem borrowInto_eq_lt {w : Nat} (a b : Word w) (i : Nat) :
    borrowInto a b i = decide (a.toNat % 2 ^ i < b.toNat % 2 ^ i) := by
  induction i with
  | zero => simp [borrowInto, Nat.mod_one]
  | succ i ih =>
    rw [borrowInto, ih, Nat.mod_pow_succ, Nat.mod_pow_succ, ← Nat.toNat_testBit, ← Nat.toNat_testBit]
    have la := Nat.mod_lt a.toNat (Nat.two_pow_pos i)
    have lb := Nat.mod_lt b.toNat (Nat.two_pow_pos i)
    simp only [BitVec.getLsbD]
    cases a.toNat.testBit i <;> cases b.toNat.testBit i <;> simp [borrowOut] <;> omega

end Sys2Proof.Machine
end

