-- ==== Sys2Proof/Laws/Decode.lean ====
section
/-! SUPPORT. The dispatch table: what a lookup finds. -/

namespace Sys2Proof

/-- A found row is a row of the table, under its own opcode. -/
theorem lookup_some {op : Nat} {row : OpcodeRow} (h : lookup op = some row) :
    row ∈ opcodeTable ∧ row.opcode = op := by
  refine ⟨List.mem_of_find?_eq_some h, ?_⟩
  have := List.find?_some h
  simpa using this

/-- An opcode takes at most two argument words (30_encoding R80). -/
theorem lookup_arity {op : Nat} {row : OpcodeRow} (h : lookup op = some row) :
    row.arity = 0 ∨ row.arity = 1 ∨ row.arity = 2 := by
  have := (lookup_some h).1
  simp only [opcodeTable, List.mem_cons, List.not_mem_nil, or_false] at this
  rcases this with h | h | h | h | h | h | h | h | h | h | h | h | h | h | h | h | h | h <;> simp [h]

/-- No two rows of the table share an opcode. -/
theorem opcodeTable_distinct : opcodeTable.Pairwise fun r s => r.opcode ≠ s.opcode := by
  simp [opcodeTable]

/-- Decoding by the row: the words after the opcode word, by the arity (30_encoding R80). -/
theorem decode_cons {w : Nat} (v : Word w) (rest : List (Word w)) :
    decode (v :: rest) =
      match lookup v.toNat with
      | none => .error .unknownOpcode
      | some row =>
        match row.arity, rest with
        | 0, rest => .ok (row.build 0 0, rest)
        | 1, x :: rest => .ok (row.build x.toNat 0, rest)
        | 2, x :: y :: rest => .ok (row.build x.toNat y.toNat, rest)
        | _, _ => .error .truncated := rfl

end Sys2Proof
end

