-- ==== Sys2Proof/Laws/State.lean ====
section
/-! SUPPORT. One lemma per field per update of the machine state, each true by unfolding the update. -/

namespace Sys2Proof.Machine

variable {c : Config} (m : Mach c)

/-! ## `setOverflow` -/

@[simp] theorem Mach.setOverflow_pipelineState (b : Bool) : (m.setOverflow b).pipelineState = m.pipelineState := rfl
@[simp] theorem Mach.setOverflow_argumentMode (b : Bool) : (m.setOverflow b).argumentMode = m.argumentMode := rfl
@[simp] theorem Mach.setOverflow_systemReserved (b : Bool) : (m.setOverflow b).systemReserved = m.systemReserved := rfl
@[simp] theorem Mach.setOverflow_commandCode (b : Bool) : (m.setOverflow b).commandCode = m.commandCode := rfl
@[simp] theorem Mach.setOverflow_arg1 (b : Bool) : (m.setOverflow b).arg1 = m.arg1 := rfl
@[simp] theorem Mach.setOverflow_arg2 (b : Bool) : (m.setOverflow b).arg2 = m.arg2 := rfl
@[simp] theorem Mach.setOverflow_terminated (b : Bool) : (m.setOverflow b).terminated = m.terminated := rfl
@[simp] theorem Mach.setOverflow_overflow (b : Bool) : (m.setOverflow b).overflow = b := rfl
@[simp] theorem Mach.setOverflow_fatal (b : Bool) : (m.setOverflow b).fatal = m.fatal := rfl
@[simp] theorem Mach.setOverflow_zero (b : Bool) : (m.setOverflow b).zero = m.zero := rfl
@[simp] theorem Mach.setOverflow_flagsReserved (b : Bool) : (m.setOverflow b).flagsReserved = m.flagsReserved := rfl
@[simp] theorem Mach.setOverflow_counter (b : Bool) : (m.setOverflow b).counter = m.counter := rfl
@[simp] theorem Mach.setOverflow_ip (b : Bool) : (m.setOverflow b).ip = m.ip := rfl
@[simp] theorem Mach.setOverflow_ar (b : Bool) : (m.setOverflow b).ar = m.ar := rfl
@[simp] theorem Mach.setOverflow_cr (b : Bool) : (m.setOverflow b).cr = m.cr := rfl
@[simp] theorem Mach.setOverflow_unused (b : Bool) : (m.setOverflow b).unused = m.unused := rfl
@[simp] theorem Mach.setOverflow_ram (b : Bool) : (m.setOverflow b).ram = m.ram := rfl
@[simp] theorem Mach.setOverflow_en (b : Bool) : (m.setOverflow b).en = m.en := rfl
@[simp] theorem Mach.setOverflow_wr (b : Bool) : (m.setOverflow b).wr = m.wr := rfl
@[simp] theorem Mach.setOverflow_addr (b : Bool) : (m.setOverflow b).addr = m.addr := rfl
@[simp] theorem Mach.setOverflow_data (b : Bool) : (m.setOverflow b).data = m.data := rfl
@[simp] theorem Mach.setOverflow_ghostCause (b : Bool) : (m.setOverflow b).ghostCause = m.ghostCause := rfl

/-! ## `setZero` -/

@[simp] theorem Mach.setZero_pipelineState (a b : Word c.w) : (m.setZero a b).pipelineState = m.pipelineState := rfl
@[simp] theorem Mach.setZero_argumentMode (a b : Word c.w) : (m.setZero a b).argumentMode = m.argumentMode := rfl
@[simp] theorem Mach.setZero_systemReserved (a b : Word c.w) : (m.setZero a b).systemReserved = m.systemReserved := rfl
@[simp] theorem Mach.setZero_commandCode (a b : Word c.w) : (m.setZero a b).commandCode = m.commandCode := rfl
@[simp] theorem Mach.setZero_arg1 (a b : Word c.w) : (m.setZero a b).arg1 = m.arg1 := rfl
@[simp] theorem Mach.setZero_arg2 (a b : Word c.w) : (m.setZero a b).arg2 = m.arg2 := rfl
@[simp] theorem Mach.setZero_terminated (a b : Word c.w) : (m.setZero a b).terminated = m.terminated := rfl
@[simp] theorem Mach.setZero_overflow (a b : Word c.w) : (m.setZero a b).overflow = m.overflow := rfl
@[simp] theorem Mach.setZero_fatal (a b : Word c.w) : (m.setZero a b).fatal = m.fatal := rfl
@[simp] theorem Mach.setZero_zero (a b : Word c.w) : (m.setZero a b).zero = decide (a = b) := rfl
@[simp] theorem Mach.setZero_flagsReserved (a b : Word c.w) : (m.setZero a b).flagsReserved = m.flagsReserved := rfl
@[simp] theorem Mach.setZero_counter (a b : Word c.w) : (m.setZero a b).counter = m.counter := rfl
@[simp] theorem Mach.setZero_ip (a b : Word c.w) : (m.setZero a b).ip = m.ip := rfl
@[simp] theorem Mach.setZero_ar (a b : Word c.w) : (m.setZero a b).ar = m.ar := rfl
@[simp] theorem Mach.setZero_cr (a b : Word c.w) : (m.setZero a b).cr = m.cr := rfl
@[simp] theorem Mach.setZero_unused (a b : Word c.w) : (m.setZero a b).unused = m.unused := rfl
@[simp] theorem Mach.setZero_ram (a b : Word c.w) : (m.setZero a b).ram = m.ram := rfl
@[simp] theorem Mach.setZero_en (a b : Word c.w) : (m.setZero a b).en = m.en := rfl
@[simp] theorem Mach.setZero_wr (a b : Word c.w) : (m.setZero a b).wr = m.wr := rfl
@[simp] theorem Mach.setZero_addr (a b : Word c.w) : (m.setZero a b).addr = m.addr := rfl
@[simp] theorem Mach.setZero_data (a b : Word c.w) : (m.setZero a b).data = m.data := rfl
@[simp] theorem Mach.setZero_ghostCause (a b : Word c.w) : (m.setZero a b).ghostCause = m.ghostCause := rfl

/-! ## `setTerminated` -/

@[simp] theorem Mach.setTerminated_pipelineState : m.setTerminated.pipelineState = m.pipelineState := rfl
@[simp] theorem Mach.setTerminated_argumentMode : m.setTerminated.argumentMode = m.argumentMode := rfl
@[simp] theorem Mach.setTerminated_systemReserved : m.setTerminated.systemReserved = m.systemReserved := rfl
@[simp] theorem Mach.setTerminated_commandCode : m.setTerminated.commandCode = m.commandCode := rfl
@[simp] theorem Mach.setTerminated_arg1 : m.setTerminated.arg1 = m.arg1 := rfl
@[simp] theorem Mach.setTerminated_arg2 : m.setTerminated.arg2 = m.arg2 := rfl
@[simp] theorem Mach.setTerminated_terminated : m.setTerminated.terminated = true := rfl
@[simp] theorem Mach.setTerminated_overflow : m.setTerminated.overflow = m.overflow := rfl
@[simp] theorem Mach.setTerminated_fatal : m.setTerminated.fatal = m.fatal := rfl
@[simp] theorem Mach.setTerminated_zero : m.setTerminated.zero = m.zero := rfl
@[simp] theorem Mach.setTerminated_flagsReserved : m.setTerminated.flagsReserved = m.flagsReserved := rfl
@[simp] theorem Mach.setTerminated_counter : m.setTerminated.counter = m.counter := rfl
@[simp] theorem Mach.setTerminated_ip : m.setTerminated.ip = m.ip := rfl
@[simp] theorem Mach.setTerminated_ar : m.setTerminated.ar = m.ar := rfl
@[simp] theorem Mach.setTerminated_cr : m.setTerminated.cr = m.cr := rfl
@[simp] theorem Mach.setTerminated_unused : m.setTerminated.unused = m.unused := rfl
@[simp] theorem Mach.setTerminated_ram : m.setTerminated.ram = m.ram := rfl
@[simp] theorem Mach.setTerminated_en : m.setTerminated.en = m.en := rfl
@[simp] theorem Mach.setTerminated_wr : m.setTerminated.wr = m.wr := rfl
@[simp] theorem Mach.setTerminated_addr : m.setTerminated.addr = m.addr := rfl
@[simp] theorem Mach.setTerminated_data : m.setTerminated.data = m.data := rfl
@[simp] theorem Mach.setTerminated_ghostCause : m.setTerminated.ghostCause = m.ghostCause := rfl

/-! ## `raiseFatal` -/

@[simp] theorem Mach.raiseFatal_pipelineState (cause : FatalCause) : (m.raiseFatal cause).pipelineState = m.pipelineState := rfl
@[simp] theorem Mach.raiseFatal_argumentMode (cause : FatalCause) : (m.raiseFatal cause).argumentMode = m.argumentMode := rfl
@[simp] theorem Mach.raiseFatal_systemReserved (cause : FatalCause) : (m.raiseFatal cause).systemReserved = m.systemReserved := rfl
@[simp] theorem Mach.raiseFatal_commandCode (cause : FatalCause) : (m.raiseFatal cause).commandCode = m.commandCode := rfl
@[simp] theorem Mach.raiseFatal_arg1 (cause : FatalCause) : (m.raiseFatal cause).arg1 = m.arg1 := rfl
@[simp] theorem Mach.raiseFatal_arg2 (cause : FatalCause) : (m.raiseFatal cause).arg2 = m.arg2 := rfl
@[simp] theorem Mach.raiseFatal_terminated (cause : FatalCause) : (m.raiseFatal cause).terminated = true := rfl
@[simp] theorem Mach.raiseFatal_overflow (cause : FatalCause) : (m.raiseFatal cause).overflow = m.overflow := rfl
@[simp] theorem Mach.raiseFatal_fatal (cause : FatalCause) : (m.raiseFatal cause).fatal = true := rfl
@[simp] theorem Mach.raiseFatal_zero (cause : FatalCause) : (m.raiseFatal cause).zero = m.zero := rfl
@[simp] theorem Mach.raiseFatal_flagsReserved (cause : FatalCause) : (m.raiseFatal cause).flagsReserved = m.flagsReserved := rfl
@[simp] theorem Mach.raiseFatal_counter (cause : FatalCause) : (m.raiseFatal cause).counter = m.counter := rfl
@[simp] theorem Mach.raiseFatal_ip (cause : FatalCause) : (m.raiseFatal cause).ip = m.ip := rfl
@[simp] theorem Mach.raiseFatal_ar (cause : FatalCause) : (m.raiseFatal cause).ar = m.ar := rfl
@[simp] theorem Mach.raiseFatal_cr (cause : FatalCause) : (m.raiseFatal cause).cr = m.cr := rfl
@[simp] theorem Mach.raiseFatal_unused (cause : FatalCause) : (m.raiseFatal cause).unused = m.unused := rfl
@[simp] theorem Mach.raiseFatal_ram (cause : FatalCause) : (m.raiseFatal cause).ram = m.ram := rfl
@[simp] theorem Mach.raiseFatal_en (cause : FatalCause) : (m.raiseFatal cause).en = m.en := rfl
@[simp] theorem Mach.raiseFatal_wr (cause : FatalCause) : (m.raiseFatal cause).wr = m.wr := rfl
@[simp] theorem Mach.raiseFatal_addr (cause : FatalCause) : (m.raiseFatal cause).addr = m.addr := rfl
@[simp] theorem Mach.raiseFatal_data (cause : FatalCause) : (m.raiseFatal cause).data = m.data := rfl
@[simp] theorem Mach.raiseFatal_ghostCause (cause : FatalCause) : (m.raiseFatal cause).ghostCause = some cause := rfl

/-! ## `requestRead` -/

@[simp] theorem Mach.requestRead_pipelineState (a : Word c.w) : (m.requestRead a).pipelineState = m.pipelineState := rfl
@[simp] theorem Mach.requestRead_argumentMode (a : Word c.w) : (m.requestRead a).argumentMode = m.argumentMode := rfl
@[simp] theorem Mach.requestRead_systemReserved (a : Word c.w) : (m.requestRead a).systemReserved = m.systemReserved := rfl
@[simp] theorem Mach.requestRead_commandCode (a : Word c.w) : (m.requestRead a).commandCode = m.commandCode := rfl
@[simp] theorem Mach.requestRead_arg1 (a : Word c.w) : (m.requestRead a).arg1 = m.arg1 := rfl
@[simp] theorem Mach.requestRead_arg2 (a : Word c.w) : (m.requestRead a).arg2 = m.arg2 := rfl
@[simp] theorem Mach.requestRead_terminated (a : Word c.w) : (m.requestRead a).terminated = m.terminated := rfl
@[simp] theorem Mach.requestRead_overflow (a : Word c.w) : (m.requestRead a).overflow = m.overflow := rfl
@[simp] theorem Mach.requestRead_fatal (a : Word c.w) : (m.requestRead a).fatal = m.fatal := rfl
@[simp] theorem Mach.requestRead_zero (a : Word c.w) : (m.requestRead a).zero = m.zero := rfl
@[simp] theorem Mach.requestRead_flagsReserved (a : Word c.w) : (m.requestRead a).flagsReserved = m.flagsReserved := rfl
@[simp] theorem Mach.requestRead_counter (a : Word c.w) : (m.requestRead a).counter = m.counter := rfl
@[simp] theorem Mach.requestRead_ip (a : Word c.w) : (m.requestRead a).ip = m.ip := rfl
@[simp] theorem Mach.requestRead_ar (a : Word c.w) : (m.requestRead a).ar = m.ar := rfl
@[simp] theorem Mach.requestRead_cr (a : Word c.w) : (m.requestRead a).cr = m.cr := rfl
@[simp] theorem Mach.requestRead_unused (a : Word c.w) : (m.requestRead a).unused = m.unused := rfl
@[simp] theorem Mach.requestRead_ram (a : Word c.w) : (m.requestRead a).ram = m.ram := rfl
@[simp] theorem Mach.requestRead_en (a : Word c.w) : (m.requestRead a).en = true := rfl
@[simp] theorem Mach.requestRead_wr (a : Word c.w) : (m.requestRead a).wr = false := rfl
@[simp] theorem Mach.requestRead_addr (a : Word c.w) : (m.requestRead a).addr = a := rfl
@[simp] theorem Mach.requestRead_data (a : Word c.w) : (m.requestRead a).data = m.data := rfl
@[simp] theorem Mach.requestRead_ghostCause (a : Word c.w) : (m.requestRead a).ghostCause = m.ghostCause := rfl

/-! ## `requestWrite` -/

@[simp] theorem Mach.requestWrite_pipelineState (a v : Word c.w) : (m.requestWrite a v).pipelineState = m.pipelineState := rfl
@[simp] theorem Mach.requestWrite_argumentMode (a v : Word c.w) : (m.requestWrite a v).argumentMode = m.argumentMode := rfl
@[simp] theorem Mach.requestWrite_systemReserved (a v : Word c.w) : (m.requestWrite a v).systemReserved = m.systemReserved := rfl
@[simp] theorem Mach.requestWrite_commandCode (a v : Word c.w) : (m.requestWrite a v).commandCode = m.commandCode := rfl
@[simp] theorem Mach.requestWrite_arg1 (a v : Word c.w) : (m.requestWrite a v).arg1 = m.arg1 := rfl
@[simp] theorem Mach.requestWrite_arg2 (a v : Word c.w) : (m.requestWrite a v).arg2 = m.arg2 := rfl
@[simp] theorem Mach.requestWrite_terminated (a v : Word c.w) : (m.requestWrite a v).terminated = m.terminated := rfl
@[simp] theorem Mach.requestWrite_overflow (a v : Word c.w) : (m.requestWrite a v).overflow = m.overflow := rfl
@[simp] theorem Mach.requestWrite_fatal (a v : Word c.w) : (m.requestWrite a v).fatal = m.fatal := rfl
@[simp] theorem Mach.requestWrite_zero (a v : Word c.w) : (m.requestWrite a v).zero = m.zero := rfl
@[simp] theorem Mach.requestWrite_flagsReserved (a v : Word c.w) : (m.requestWrite a v).flagsReserved = m.flagsReserved := rfl
@[simp] theorem Mach.requestWrite_counter (a v : Word c.w) : (m.requestWrite a v).counter = m.counter := rfl
@[simp] theorem Mach.requestWrite_ip (a v : Word c.w) : (m.requestWrite a v).ip = m.ip := rfl
@[simp] theorem Mach.requestWrite_ar (a v : Word c.w) : (m.requestWrite a v).ar = m.ar := rfl
@[simp] theorem Mach.requestWrite_cr (a v : Word c.w) : (m.requestWrite a v).cr = m.cr := rfl
@[simp] theorem Mach.requestWrite_unused (a v : Word c.w) : (m.requestWrite a v).unused = m.unused := rfl
@[simp] theorem Mach.requestWrite_ram (a v : Word c.w) : (m.requestWrite a v).ram = m.ram := rfl
@[simp] theorem Mach.requestWrite_en (a v : Word c.w) : (m.requestWrite a v).en = true := rfl
@[simp] theorem Mach.requestWrite_wr (a v : Word c.w) : (m.requestWrite a v).wr = true := rfl
@[simp] theorem Mach.requestWrite_addr (a v : Word c.w) : (m.requestWrite a v).addr = a := rfl
@[simp] theorem Mach.requestWrite_data (a v : Word c.w) : (m.requestWrite a v).data = v := rfl
@[simp] theorem Mach.requestWrite_ghostCause (a v : Word c.w) : (m.requestWrite a v).ghostCause = m.ghostCause := rfl

/-! ## `set` -/

@[simp] theorem Mach.set_pipelineState (r : RegRef c) (v : Word c.w) : (m.set r v).pipelineState = m.pipelineState := by cases r <;> rfl
@[simp] theorem Mach.set_argumentMode (r : RegRef c) (v : Word c.w) : (m.set r v).argumentMode = m.argumentMode := by cases r <;> rfl
@[simp] theorem Mach.set_systemReserved (r : RegRef c) (v : Word c.w) : (m.set r v).systemReserved = m.systemReserved := by cases r <;> rfl
@[simp] theorem Mach.set_commandCode (r : RegRef c) (v : Word c.w) : (m.set r v).commandCode = m.commandCode := by cases r <;> rfl
@[simp] theorem Mach.set_arg1 (r : RegRef c) (v : Word c.w) : (m.set r v).arg1 = m.arg1 := by cases r <;> rfl
@[simp] theorem Mach.set_arg2 (r : RegRef c) (v : Word c.w) : (m.set r v).arg2 = m.arg2 := by cases r <;> rfl
@[simp] theorem Mach.set_terminated (r : RegRef c) (v : Word c.w) : (m.set r v).terminated = m.terminated := by cases r <;> rfl
@[simp] theorem Mach.set_overflow (r : RegRef c) (v : Word c.w) : (m.set r v).overflow = m.overflow := by cases r <;> rfl
@[simp] theorem Mach.set_fatal (r : RegRef c) (v : Word c.w) : (m.set r v).fatal = m.fatal := by cases r <;> rfl
@[simp] theorem Mach.set_zero (r : RegRef c) (v : Word c.w) : (m.set r v).zero = m.zero := by cases r <;> rfl
@[simp] theorem Mach.set_flagsReserved (r : RegRef c) (v : Word c.w) : (m.set r v).flagsReserved = m.flagsReserved := by cases r <;> rfl
@[simp] theorem Mach.set_counter_counter (v : Word c.w) : (m.set .counter v).counter = v := rfl
@[simp] theorem Mach.set_ip_counter (v : Word c.w) : (m.set .ip v).counter = m.counter := rfl
@[simp] theorem Mach.set_ar_counter (v : Word c.w) : (m.set .ar v).counter = m.counter := rfl
@[simp] theorem Mach.set_cr_counter (i : Fin c.cnCount) (v : Word c.w) : (m.set (.cr i) v).counter = m.counter := rfl
@[simp] theorem Mach.set_counter_ip (v : Word c.w) : (m.set .counter v).ip = m.ip := rfl
@[simp] theorem Mach.set_ip_ip (v : Word c.w) : (m.set .ip v).ip = v := rfl
@[simp] theorem Mach.set_ar_ip (v : Word c.w) : (m.set .ar v).ip = m.ip := rfl
@[simp] theorem Mach.set_cr_ip (i : Fin c.cnCount) (v : Word c.w) : (m.set (.cr i) v).ip = m.ip := rfl
@[simp] theorem Mach.set_counter_ar (v : Word c.w) : (m.set .counter v).ar = m.ar := rfl
@[simp] theorem Mach.set_ip_ar (v : Word c.w) : (m.set .ip v).ar = m.ar := rfl
@[simp] theorem Mach.set_ar_ar (v : Word c.w) : (m.set .ar v).ar = v := rfl
@[simp] theorem Mach.set_cr_ar (i : Fin c.cnCount) (v : Word c.w) : (m.set (.cr i) v).ar = m.ar := rfl
@[simp] theorem Mach.set_counter_cr (v : Word c.w) : (m.set .counter v).cr = m.cr := rfl
@[simp] theorem Mach.set_ip_cr (v : Word c.w) : (m.set .ip v).cr = m.cr := rfl
@[simp] theorem Mach.set_ar_cr (v : Word c.w) : (m.set .ar v).cr = m.cr := rfl
@[simp] theorem Mach.set_cr_cr (i : Fin c.cnCount) (v : Word c.w) : (m.set (.cr i) v).cr = m.cr.set i v := rfl
@[simp] theorem Mach.set_unused (r : RegRef c) (v : Word c.w) : (m.set r v).unused = m.unused := by cases r <;> rfl
@[simp] theorem Mach.set_ram (r : RegRef c) (v : Word c.w) : (m.set r v).ram = m.ram := by cases r <;> rfl
@[simp] theorem Mach.set_en (r : RegRef c) (v : Word c.w) : (m.set r v).en = m.en := by cases r <;> rfl
@[simp] theorem Mach.set_wr (r : RegRef c) (v : Word c.w) : (m.set r v).wr = m.wr := by cases r <;> rfl
@[simp] theorem Mach.set_addr (r : RegRef c) (v : Word c.w) : (m.set r v).addr = m.addr := by cases r <;> rfl
@[simp] theorem Mach.set_data (r : RegRef c) (v : Word c.w) : (m.set r v).data = m.data := by cases r <;> rfl
@[simp] theorem Mach.set_ghostCause (r : RegRef c) (v : Word c.w) : (m.set r v).ghostCause = m.ghostCause := by cases r <;> rfl

/-! ## `get` -/

@[simp] theorem Mach.get_counter : m.get .counter = m.counter := rfl
@[simp] theorem Mach.get_ip : m.get .ip = m.ip := rfl
@[simp] theorem Mach.get_ar : m.get .ar = m.ar := rfl
@[simp] theorem Mach.get_cr (i : Fin c.cnCount) : m.get (.cr i) = m.cr[i] := rfl

/-- Reading a register back after a write of it. -/
@[simp] theorem Mach.get_set_same (r : RegRef c) (v : Word c.w) : (m.set r v).get r = v := by
  cases r <;> simp [Mach.get, Mach.set]

/-- A write of one register leaves every other register alone (10_state R35). -/
theorem Mach.get_set_other {r q : RegRef c} (v : Word c.w) (h : q ≠ r) : (m.set r v).get q = m.get q := by
  cases r <;> cases q <;> simp_all [Mach.get, Mach.set, Vector.getElem_set, Fin.ext_iff]
  intro he
  exact absurd he.symm h

end Sys2Proof.Machine
end

