-- ==== Sys2Proof/Laws/Ops.lean ====
section
/-! SUPPORT. What each shared operation can do, said once. -/

namespace Sys2Proof.Machine

variable {c : Config} (m : Mach c)

/-! ## Adding to a register, the Counter step, the commit and the jump -/

/-- The sum and the carry of `AddToReg` (40_alu R108). -/
theorem Mach.addToReg_eq (r : RegRef c) (v : Word c.w) :
    m.addToReg r v = ((m.set r (addW (m.get r) v).1).setOverflow (addW (m.get r) v).2, (addW (m.get r) v).2) := rfl

/-- The difference and the borrow of `SubFromReg` (40_alu R108). -/
theorem Mach.subFromReg_eq (r : RegRef c) (v : Word c.w) :
    m.subFromReg r v = ((m.set r (subW (m.get r) v).1).setOverflow (subW (m.get r) v).2, (subW (m.get r) v).2) := rfl

/-- The Counter step faults on a carry, and goes on otherwise (40_alu R112). -/
theorem Mach.bumpCounter_eq (k : Mach c → Mach c) :
    m.bumpCounter k =
      if (addW m.counter (oneWord c.w)).2 then
        { m with
          counter := (addW m.counter (oneWord c.w)).1, overflow := true, fatal := true, terminated := true
          ghostCause := some .counterOverflow }
      else k { m with counter := (addW m.counter (oneWord c.w)).1, overflow := false } := by
  simp only [Mach.bumpCounter, Mach.incRegister, Mach.addToReg_eq, Mach.get_counter]
  split <;> simp_all [Mach.set, Mach.setOverflow, Mach.raiseFatal]

/-- The IP step faults on a carry, and goes on otherwise (40_alu R111). -/
theorem Mach.bumpIP_eq (n : Nat) (k : Mach c → Mach c) :
    m.bumpIP n k =
      if (addW m.ip (fromValue c.w n)).2 then
        { m with
          ip := (addW m.ip (fromValue c.w n)).1, overflow := true, fatal := true, terminated := true
          ghostCause := some .ipOverflow }
      else k { m with ip := (addW m.ip (fromValue c.w n)).1, overflow := false } := by
  simp only [Mach.bumpIP, Mach.addToReg_eq, Mach.get_ip]
  split <;> simp_all [Mach.set, Mach.setOverflow, Mach.raiseFatal]

/-- Everything a commit can do: fault on the Counter step, fault on the IP step, or commit (40_alu R112, R113). -/
theorem Mach.commit_eq (n : Nat) :
    m.commit n =
      if (addW m.counter (oneWord c.w)).2 then
        { m with
          counter := (addW m.counter (oneWord c.w)).1, overflow := true, fatal := true, terminated := true
          ghostCause := some .counterOverflow }
      else if (addW m.ip (fromValue c.w n)).2 then
        { m with
          counter := (addW m.counter (oneWord c.w)).1, ip := (addW m.ip (fromValue c.w n)).1, overflow := true
          fatal := true, terminated := true, ghostCause := some .ipOverflow }
      else
        { m with
          counter := (addW m.counter (oneWord c.w)).1, ip := (addW m.ip (fromValue c.w n)).1, overflow := false
          pipelineState := .fetch } := by
  simp only [Mach.commit, Mach.bumpCounter_eq, Mach.bumpIP_eq]

/-- Everything a jump can do: fault on the Counter step, or jump (46_compare_branch R210). -/
theorem Mach.jumpTo_eq (x : Word c.w) :
    m.jumpTo x =
      if (addW m.counter (oneWord c.w)).2 then
        { m with
          counter := (addW m.counter (oneWord c.w)).1, overflow := true, fatal := true, terminated := true
          ghostCause := some .counterOverflow }
      else
        { m with
          counter := (addW m.counter (oneWord c.w)).1, ip := x, overflow := false, pipelineState := .fetch } := by
  simp only [Mach.jumpTo, Mach.bumpCounter_eq]

/-! What a commit and a jump leave alone. -/

@[simp] theorem Mach.commit_argumentMode (n : Nat) : (m.commit n).argumentMode = m.argumentMode := by
  rw [Mach.commit_eq]; split <;> [rfl; split <;> rfl]
@[simp] theorem Mach.commit_systemReserved (n : Nat) : (m.commit n).systemReserved = m.systemReserved := by
  rw [Mach.commit_eq]; split <;> [rfl; split <;> rfl]
@[simp] theorem Mach.commit_commandCode (n : Nat) : (m.commit n).commandCode = m.commandCode := by
  rw [Mach.commit_eq]; split <;> [rfl; split <;> rfl]
@[simp] theorem Mach.commit_arg1 (n : Nat) : (m.commit n).arg1 = m.arg1 := by
  rw [Mach.commit_eq]; split <;> [rfl; split <;> rfl]
@[simp] theorem Mach.commit_arg2 (n : Nat) : (m.commit n).arg2 = m.arg2 := by
  rw [Mach.commit_eq]; split <;> [rfl; split <;> rfl]
@[simp] theorem Mach.commit_zero (n : Nat) : (m.commit n).zero = m.zero := by
  rw [Mach.commit_eq]; split <;> [rfl; split <;> rfl]
@[simp] theorem Mach.commit_flagsReserved (n : Nat) : (m.commit n).flagsReserved = m.flagsReserved := by
  rw [Mach.commit_eq]; split <;> [rfl; split <;> rfl]
@[simp] theorem Mach.commit_ar (n : Nat) : (m.commit n).ar = m.ar := by
  rw [Mach.commit_eq]; split <;> [rfl; split <;> rfl]
@[simp] theorem Mach.commit_cr (n : Nat) : (m.commit n).cr = m.cr := by
  rw [Mach.commit_eq]; split <;> [rfl; split <;> rfl]
@[simp] theorem Mach.commit_unused (n : Nat) : (m.commit n).unused = m.unused := by
  rw [Mach.commit_eq]; split <;> [rfl; split <;> rfl]
@[simp] theorem Mach.commit_ram (n : Nat) : (m.commit n).ram = m.ram := by
  rw [Mach.commit_eq]; split <;> [rfl; split <;> rfl]
@[simp] theorem Mach.commit_en (n : Nat) : (m.commit n).en = m.en := by
  rw [Mach.commit_eq]; split <;> [rfl; split <;> rfl]
@[simp] theorem Mach.commit_wr (n : Nat) : (m.commit n).wr = m.wr := by
  rw [Mach.commit_eq]; split <;> [rfl; split <;> rfl]
@[simp] theorem Mach.commit_addr (n : Nat) : (m.commit n).addr = m.addr := by
  rw [Mach.commit_eq]; split <;> [rfl; split <;> rfl]
@[simp] theorem Mach.commit_data (n : Nat) : (m.commit n).data = m.data := by
  rw [Mach.commit_eq]; split <;> [rfl; split <;> rfl]
@[simp] theorem Mach.jumpTo_argumentMode (x : Word c.w) : (m.jumpTo x).argumentMode = m.argumentMode := by
  rw [Mach.jumpTo_eq]; split <;> rfl
@[simp] theorem Mach.jumpTo_systemReserved (x : Word c.w) : (m.jumpTo x).systemReserved = m.systemReserved := by
  rw [Mach.jumpTo_eq]; split <;> rfl
@[simp] theorem Mach.jumpTo_commandCode (x : Word c.w) : (m.jumpTo x).commandCode = m.commandCode := by
  rw [Mach.jumpTo_eq]; split <;> rfl
@[simp] theorem Mach.jumpTo_arg1 (x : Word c.w) : (m.jumpTo x).arg1 = m.arg1 := by
  rw [Mach.jumpTo_eq]; split <;> rfl
@[simp] theorem Mach.jumpTo_arg2 (x : Word c.w) : (m.jumpTo x).arg2 = m.arg2 := by
  rw [Mach.jumpTo_eq]; split <;> rfl
@[simp] theorem Mach.jumpTo_zero (x : Word c.w) : (m.jumpTo x).zero = m.zero := by
  rw [Mach.jumpTo_eq]; split <;> rfl
@[simp] theorem Mach.jumpTo_flagsReserved (x : Word c.w) : (m.jumpTo x).flagsReserved = m.flagsReserved := by
  rw [Mach.jumpTo_eq]; split <;> rfl
@[simp] theorem Mach.jumpTo_ar (x : Word c.w) : (m.jumpTo x).ar = m.ar := by
  rw [Mach.jumpTo_eq]; split <;> rfl
@[simp] theorem Mach.jumpTo_cr (x : Word c.w) : (m.jumpTo x).cr = m.cr := by
  rw [Mach.jumpTo_eq]; split <;> rfl
@[simp] theorem Mach.jumpTo_unused (x : Word c.w) : (m.jumpTo x).unused = m.unused := by
  rw [Mach.jumpTo_eq]; split <;> rfl
@[simp] theorem Mach.jumpTo_ram (x : Word c.w) : (m.jumpTo x).ram = m.ram := by
  rw [Mach.jumpTo_eq]; split <;> rfl
@[simp] theorem Mach.jumpTo_en (x : Word c.w) : (m.jumpTo x).en = m.en := by
  rw [Mach.jumpTo_eq]; split <;> rfl
@[simp] theorem Mach.jumpTo_wr (x : Word c.w) : (m.jumpTo x).wr = m.wr := by
  rw [Mach.jumpTo_eq]; split <;> rfl
@[simp] theorem Mach.jumpTo_addr (x : Word c.w) : (m.jumpTo x).addr = m.addr := by
  rw [Mach.jumpTo_eq]; split <;> rfl
@[simp] theorem Mach.jumpTo_data (x : Word c.w) : (m.jumpTo x).data = m.data := by
  rw [Mach.jumpTo_eq]; split <;> rfl

/-! ## Operands -/

/-- An index of a general register passes the check (10_state R34). -/
theorem Mach.withIndex_inside {i : Nat} (h : i < c.cnCount) (k : Fin c.cnCount → Mach c) :
    m.withIndex i k = k ⟨i, h⟩ := dif_pos h

/-- An index at or beyond CN_COUNT faults, and nothing else happens (10_state R34). -/
theorem Mach.withIndex_beyond {i : Nat} (h : ¬ i < c.cnCount) (k : Fin c.cnCount → Mach c) :
    m.withIndex i k = m.raiseFatal .registerIndex := dif_neg h

/-- `ReadCR` of a general register (10_state R34). -/
theorem Mach.readCR_inside {i : Nat} (h : i < c.cnCount) (k : Word c.w → Mach c) : m.readCR i k = k m.cr[i] :=
  dif_pos h

/-- `ReadCR` at or beyond CN_COUNT (10_state R34). -/
theorem Mach.readCR_beyond {i : Nat} (h : ¬ i < c.cnCount) (k : Word c.w → Mach c) :
    m.readCR i k = m.raiseFatal .registerIndex := dif_neg h

/-- `WriteCR` of a general register (10_state R34). -/
theorem Mach.writeCR_inside {i : Nat} (h : i < c.cnCount) (v : Word c.w) (k : Mach c → Mach c) :
    m.writeCR i v k = k { m with cr := m.cr.set i v h } := dif_pos h

/-- `WriteCR` at or beyond CN_COUNT (10_state R34). -/
theorem Mach.writeCR_beyond {i : Nat} (h : ¬ i < c.cnCount) (v : Word c.w) (k : Mach c → Mach c) :
    m.writeCR i v k = m.raiseFatal .registerIndex := dif_neg h

/-! ## The argument address -/

/-- `ArgAddress(k)` faults on a carry, and goes on otherwise (41_pipeline R141). -/
theorem Mach.argAddress_eq (k : Nat) (next : Word c.w → Mach c) :
    m.argAddress k next =
      if (addW m.ip (fromValue c.w k)).2 then m.raiseFatal .argAddressOverflow
      else next (addW m.ip (fromValue c.w k)).1 := rfl

end Sys2Proof.Machine
end

