-- ==== Sys2Proof/Laws/Exec.lean ====
section
/-! SUPPORT. One lemma per instruction: what its handler does where its register indices are those of registers, before
the commit's own cases (`Mach.commit_eq`, `Mach.jumpTo_eq`); and what every handler does where an index is not. -/

namespace Sys2Proof.Machine

variable {c : Config} (m : Mach c)

/-- Two register operands inside the register file (40_alu R115). -/
theorem Mach.readCR2_inside {x y : Nat} (hx : x < c.cnCount) (hy : y < c.cnCount) (k : Word c.w → Word c.w → Mach c) :
    m.readCR2 x y k = k m.cr[x] m.cr[y] := by
  rw [Mach.readCR2, m.readCR_inside hx, m.readCR_inside hy]

/-- Two register operands of which one is beyond the register file (40_alu R115). -/
theorem Mach.readCR2_beyond {x y : Nat} (h : ¬ (x < c.cnCount ∧ y < c.cnCount)) (k : Word c.w → Word c.w → Mach c) :
    m.readCR2 x y k = m.raiseFatal .registerIndex := by
  by_cases hx : x < c.cnCount
  · rw [Mach.readCR2, m.readCR_inside hx, m.readCR_beyond fun hy => h ⟨hx, hy⟩]
  · rw [Mach.readCR2, m.readCR_beyond hx]

theorem exec_noop : exec .noop ⟨c, m⟩ = .next ⟨c, m.commit 1⟩ := rfl

theorem exec_rst : exec .rst ⟨c, m⟩ = .next ⟨c, m.setTerminated.commit 1⟩ := rfl

theorem exec_clra : exec .clra ⟨c, m⟩ = .next ⟨c, (m.set .ar 0).commit 1⟩ := rfl

theorem exec_inca : exec .inca ⟨c, m⟩ = .next ⟨c, (m.addToReg .ar (oneWord c.w)).1.commit 1⟩ := rfl

theorem exec_deca : exec .deca ⟨c, m⟩ = .next ⟨c, (m.subFromReg .ar (oneWord c.w)).1.commit 1⟩ := rfl

theorem exec_jmp (x : Nat) : exec (.jmp x) ⟨c, m⟩ = .next ⟨c, m.jumpTo (fromValue c.w x)⟩ := rfl

theorem exec_jz (x : Nat) :
    exec (.jz x) ⟨c, m⟩ = .next ⟨c, if m.zero then m.jumpTo (fromValue c.w x) else m.commit 2⟩ := rfl

theorem exec_clr {x : Nat} (hx : x < c.cnCount) :
    exec (.clr x) ⟨c, m⟩ = .next ⟨c, (m.set (.cr ⟨x, hx⟩) 0).commit 2⟩ := by
  simp only [exec, execClr, State.cpu, Mach.writeCR_inside _ hx]
  rfl

theorem exec_inc {x : Nat} (hx : x < c.cnCount) :
    exec (.inc x) ⟨c, m⟩ = .next ⟨c, (m.addToReg (.cr ⟨x, hx⟩) (oneWord c.w)).1.commit 2⟩ := by
  simp only [exec, execInc, State.cpu, Mach.withIndex_inside _ hx]
  rfl

theorem exec_dec {x : Nat} (hx : x < c.cnCount) :
    exec (.dec x) ⟨c, m⟩ = .next ⟨c, (m.subFromReg (.cr ⟨x, hx⟩) (oneWord c.w)).1.commit 2⟩ := by
  simp only [exec, execDec, State.cpu, Mach.withIndex_inside _ hx]
  rfl

theorem exec_adda {x : Nat} (hx : x < c.cnCount) :
    exec (.adda x) ⟨c, m⟩ = .next ⟨c, (m.addToReg .ar m.cr[x]).1.commit 2⟩ := by
  simp only [exec, execAdda, State.cpu, Mach.readCR_inside _ hx]

theorem exec_suba {x : Nat} (hx : x < c.cnCount) :
    exec (.suba x) ⟨c, m⟩ = .next ⟨c, (m.subFromReg .ar m.cr[x]).1.commit 2⟩ := by
  simp only [exec, execSuba, State.cpu, Mach.readCR_inside _ hx]

theorem exec_sum {x y : Nat} (hx : x < c.cnCount) (hy : y < c.cnCount) :
    exec (.sum x y) ⟨c, m⟩ = .next ⟨c, ((m.set .ar m.cr[x]).addToReg .ar m.cr[y]).1.commit 3⟩ := by
  simp only [exec, execSum, State.cpu, Mach.readCR2_inside _ hx hy]

theorem exec_sub {x y : Nat} (hx : x < c.cnCount) (hy : y < c.cnCount) :
    exec (.sub x y) ⟨c, m⟩ = .next ⟨c, ((m.set .ar m.cr[x]).subFromReg .ar m.cr[y]).1.commit 3⟩ := by
  simp only [exec, execSub, State.cpu, Mach.readCR2_inside _ hx hy]

theorem exec_cmp {x y : Nat} (hx : x < c.cnCount) (hy : y < c.cnCount) :
    exec (.cmp x y) ⟨c, m⟩ = .next ⟨c, (m.setZero m.cr[x] m.cr[y]).commit 3⟩ := by
  simp only [exec, execCmp, State.cpu, Mach.readCR2_inside _ hx hy]

theorem exec_st {x y : Nat} (hx : x < c.cnCount) (hy : y < c.cnCount) :
    exec (.st x y) ⟨c, m⟩ = .next ⟨c, (m.requestWrite m.cr[y] m.cr[x]).commit 3⟩ := by
  simp only [exec, execSt, State.cpu, Mach.readCR2_inside _ hx hy]

theorem exec_mov {x y : Nat} (hx : x < c.cnCount) (hy : y < c.cnCount) :
    exec (.mov x y) ⟨c, m⟩ = .next ⟨c, (m.set (.cr ⟨x, hx⟩) m.cr[y]).commit 3⟩ := by
  simp only [exec, execMov, State.cpu, Mach.readCR2_inside _ hx hy, Mach.writeCR_inside _ hx]
  rfl

/-- LD in the states that run its first phase (45_load_store R200). -/
theorem exec_ld_phase1 (x y : Nat) (hp : m.pipelineState ≠ .execute2) :
    exec (.ld x y) ⟨c, m⟩ = .next ⟨c, m.ldPhase1 x⟩ := by
  simp only [exec, execLd, State.cpu, if_neg hp]

/-- LD in Execute2 (45_load_store R201). -/
theorem exec_ld_phase2 (x y : Nat) (hp : m.pipelineState = .execute2) :
    exec (.ld x y) ⟨c, m⟩ = .next ⟨c, m.ldPhase2 y⟩ := by
  simp only [exec, execLd, State.cpu, if_pos hp]

/-- LD's first phase (45_load_store R200). -/
theorem Mach.ldPhase1_inside {x : Nat} (hx : x < c.cnCount) :
    m.ldPhase1 x = { m with en := true, wr := false, addr := m.cr[x], pipelineState := .execute2 } := by
  rw [Mach.ldPhase1, m.readCR_inside hx]
  rfl

/-- LD's second phase (45_load_store R201). -/
theorem Mach.ldPhase2_inside {y : Nat} (hy : y < c.cnCount) :
    m.ldPhase2 y = (m.set (.cr ⟨y, hy⟩) m.data).commit 3 := by
  rw [Mach.ldPhase2, m.writeCR_inside hy]
  rfl

/-- An instruction of one register whose index is beyond the register file (10_state R34). -/
theorem exec_beyond {x : Nat} (hx : ¬ x < c.cnCount) {i : Instr}
    (hi : i = .clr x ∨ i = .inc x ∨ i = .dec x ∨ i = .adda x ∨ i = .suba x) :
    exec i ⟨c, m⟩ = .next ⟨c, m.raiseFatal .registerIndex⟩ := by
  rcases hi with h | h | h | h | h <;> subst h <;>
    simp only [exec, execClr, execInc, execDec, execAdda, execSuba, State.cpu, Mach.withIndex_beyond _ hx,
      Mach.readCR_beyond _ hx, Mach.writeCR_beyond _ hx]

/-- An instruction of two registers of which one is beyond the register file (40_alu R115). -/
theorem exec_beyond2 {x y : Nat} (h : ¬ (x < c.cnCount ∧ y < c.cnCount)) {i : Instr}
    (hi : i = .sum x y ∨ i = .mov x y ∨ i = .st x y ∨ i = .sub x y ∨ i = .cmp x y) :
    exec i ⟨c, m⟩ = .next ⟨c, m.raiseFatal .registerIndex⟩ := by
  rcases hi with e | e | e | e | e <;> subst e <;>
    simp only [exec, execSum, execMov, execSt, execSub, execCmp, State.cpu, Mach.readCR2_beyond _ h]

end Sys2Proof.Machine
end

