-- ==== Sys2Proof/Laws/Memory.lean ====
section
/-! SUPPORT. RAM: every operation keeps the canonical form, and what a read answers after each. -/

namespace Sys2Proof.Machine

variable {w n : Nat}

/-- Addresses below a canonical list are unlisted. -/
theorem Ram.read_below {ram : Ram w} {lo a : Nat} (h : Ram.wfFrom n lo ram = true) (ha : a < lo) :
    Ram.read ram a = Ram.unlisted w := by
  induction ram generalizing lo with
  | nil => rfl
  | cons e rest ih =>
    obtain ⟨k, v⟩ := e
    simp only [Ram.wfFrom, Bool.and_eq_true, decide_eq_true_eq] at h
    rw [Ram.read, if_neg (by omega)]
    exact ih h.2 (by omega)

/-- The canonical form may start lower. -/
theorem Ram.wfFrom_mono {ram : Ram w} {lo lo' : Nat} (h : Ram.wfFrom n lo ram = true) (hl : lo' ≤ lo) :
    Ram.wfFrom n lo' ram = true := by
  cases ram with
  | nil => rfl
  | cons e rest =>
    obtain ⟨k, v⟩ := e
    simp only [Ram.wfFrom, Bool.and_eq_true, decide_eq_true_eq] at h ⊢
    exact ⟨⟨⟨by omega, h.1.1.2⟩, h.1.2⟩, h.2⟩

/-- A write keeps the canonical form. -/
theorem Ram.write_wfFrom {ram : Ram w} {lo a : Nat} {v : Word w} (h : Ram.wfFrom n lo ram = true) (hl : lo ≤ a)
    (ha : a < n) : Ram.wfFrom n lo (Ram.write ram a v) = true := by
  induction ram generalizing lo with
  | nil =>
    by_cases hv : v = Ram.unlisted w <;> simp [Ram.write, Ram.wfFrom, hv, hl, ha]
  | cons e rest ih =>
    obtain ⟨k, u⟩ := e
    have h0 := h
    simp only [Ram.wfFrom, Bool.and_eq_true, decide_eq_true_eq] at h
    obtain ⟨⟨⟨hk, hkn⟩, hu⟩, hr⟩ := h
    simp only [Ram.write]
    split
    · split
      · exact h0
      · simp_all [Ram.wfFrom]
    · split
      · split
        · exact Ram.wfFrom_mono hr (by omega)
        · subst a
          simp_all [Ram.wfFrom]
      · simp only [Ram.wfFrom, Bool.and_eq_true, decide_eq_true_eq]
        exact ⟨⟨⟨hk, hkn⟩, hu⟩, ih hr (by omega)⟩

/-- Every write to a word that exists keeps the canonical form. -/
theorem Ram.write_wf {ram : Ram w} {a : Nat} {v : Word w} (h : Ram.wf n ram = true) (ha : a < n) :
    Ram.wf n (Ram.write ram a v) = true :=
  Ram.write_wfFrom h (Nat.zero_le _) ha

/-- What a read answers after a write, in a canonical list. -/
theorem Ram.read_write_from {ram : Ram w} {lo a b : Nat} {v : Word w} (h : Ram.wfFrom n lo ram = true) :
    Ram.read (Ram.write ram a v) b = if b = a then v else Ram.read ram b := by
  induction ram generalizing lo with
  | nil =>
    by_cases hv : v = Ram.unlisted w <;> by_cases hb : b = a <;> simp [Ram.write, Ram.read, hv, hb]
    omega
  | cons e rest ih =>
    obtain ⟨k, u⟩ := e
    have h0 := h
    simp only [Ram.wfFrom, Bool.and_eq_true, decide_eq_true_eq] at h
    obtain ⟨⟨⟨hk, hkn⟩, hu⟩, hr⟩ := h
    simp only [Ram.write]
    split
    · split
      · split
        · subst_vars
          rw [Ram.read, if_neg (by omega), Ram.read_below hr (by omega)]
        · rfl
      · simp only [Ram.read, eq_comm]
    · split
      · subst a
        split
        · split
          · subst_vars
            rw [Ram.read_below hr (by omega)]
          · rw [Ram.read, if_neg (by omega)]
        · simp only [Ram.read]
          by_cases hb : b = k
          · simp [hb]
          · simp [hb, Ne.symm hb]
      · simp only [Ram.read, ih hr]
        by_cases hb : k = b
        · subst hb
          simp
          intro hc
          omega
        · simp [hb]

/-- A read of the written address answers the written word. -/
theorem Ram.read_write_same {ram : Ram w} {a : Nat} {v : Word w} (h : Ram.wf n ram = true) :
    Ram.read (Ram.write ram a v) a = v := by
  rw [Ram.read_write_from h, if_pos rfl]

/-- A write leaves every other address alone. -/
theorem Ram.read_write_other {ram : Ram w} {a b : Nat} {v : Word w} (h : Ram.wf n ram = true) (hb : b ≠ a) :
    Ram.read (Ram.write ram a v) b = Ram.read ram b := by
  rw [Ram.read_write_from h, if_neg hb]

/-- The RAM of an image is canonical, from the image's first address up. -/
theorem Ram.ofImage_wfFrom {a : Nat} {image : List (Word w)} (h : a + image.length ≤ n) :
    Ram.wfFrom n a (Ram.ofImage a image) = true := by
  induction image generalizing a with
  | nil => rfl
  | cons v rest ih =>
    simp only [List.length_cons] at h
    have hr := ih (a := a + 1) (by omega)
    rw [Ram.ofImage]
    split
    · exact Ram.wfFrom_mono hr (by omega)
    · simp only [Ram.wfFrom, Bool.and_eq_true, decide_eq_true_eq]
      exact ⟨⟨⟨Nat.le_refl a, by omega⟩, by assumption⟩, hr⟩

/-- The RAM of an image is canonical. -/
theorem Ram.ofImage_wf {image : List (Word w)} (h : image.length ≤ n) : Ram.wf n (Ram.ofImage 0 image) = true :=
  Ram.ofImage_wfFrom (by omega)

/-- The RAM of an image holds the image's words. -/
theorem Ram.read_ofImage {a b : Nat} (image : List (Word w)) :
    Ram.read (Ram.ofImage a image) b = if a ≤ b then image.getD (b - a) (Ram.unlisted w) else Ram.unlisted w := by
  induction image generalizing a with
  | nil => simp [Ram.ofImage, Ram.read]
  | cons v rest ih =>
    rw [Ram.ofImage]
    by_cases hb : a = b
    · subst hb
      split
      · rw [ih, if_neg (by omega)]
        simp_all
      · simp [Ram.read]
    · have hs : ∀ h : a ≤ b, (v :: rest).getD (b - a) (Ram.unlisted w) = rest.getD (b - (a + 1)) (Ram.unlisted w) := by
        intro h
        obtain ⟨d, rfl⟩ : ∃ d, b = a + 1 + d := ⟨b - (a + 1), by omega⟩
        have e1 : a + 1 + d - a = d + 1 := by omega
        have e2 : a + 1 + d - (a + 1) = d := by omega
        rw [e1, e2]
        rfl
      split
      · rw [ih]
        by_cases h : a ≤ b
        · rw [if_pos (by omega), if_pos h, hs h]
        · rw [if_neg (by omega), if_neg h]
      · rw [Ram.read, if_neg hb, ih]
        by_cases h : a ≤ b
        · rw [if_pos (by omega), if_pos h, hs h]
        · rw [if_neg (by omega), if_neg h]

/-- Placing words keeps the canonical form. -/
theorem Ram.place_wf {ram : Ram w} {a : Nat} {ws : List (Word w)} (h : Ram.wf n ram = true) :
    Ram.wf n (Ram.place n ram a ws) = true := by
  induction ws generalizing ram a with
  | nil => exact h
  | cons v rest ih =>
    rw [Ram.place]
    apply ih
    split
    · exact Ram.write_wf h (by assumption)
    · exact h

end Sys2Proof.Machine
end

