-- ==== Sys2Proof/Laws/PerInstr.lean ====
section
/-! SUPPORT. Per instruction: the dispatch table and the instruction's own fields agree (30_encoding R85, R86). -/

namespace Sys2Proof.Laws.TableRow

/-- The row that the table holds for an instruction's opcode has the instruction's arity, and builds the instruction
from its operands. -/
def Statement (i : Instr) : Prop :=
  ∃ row, lookup i.opcode = some row ∧ row.arity = i.arity ∧
    row.build (i.operands.getD 0 0) (i.operands.getD 1 0) = i

theorem noop : Statement .noop := ⟨_, rfl, rfl, rfl⟩
theorem rst : Statement .rst := ⟨_, rfl, rfl, rfl⟩
theorem clr (x : Nat) : Statement (.clr x) := ⟨_, rfl, rfl, rfl⟩
theorem inc (x : Nat) : Statement (.inc x) := ⟨_, rfl, rfl, rfl⟩
theorem sum (x y : Nat) : Statement (.sum x y) := ⟨_, rfl, rfl, rfl⟩
theorem mov (x y : Nat) : Statement (.mov x y) := ⟨_, rfl, rfl, rfl⟩
theorem clra : Statement .clra := ⟨_, rfl, rfl, rfl⟩
theorem inca : Statement .inca := ⟨_, rfl, rfl, rfl⟩
theorem adda (x : Nat) : Statement (.adda x) := ⟨_, rfl, rfl, rfl⟩
theorem ld (x y : Nat) : Statement (.ld x y) := ⟨_, rfl, rfl, rfl⟩
theorem st (x y : Nat) : Statement (.st x y) := ⟨_, rfl, rfl, rfl⟩
theorem sub (x y : Nat) : Statement (.sub x y) := ⟨_, rfl, rfl, rfl⟩
theorem suba (x : Nat) : Statement (.suba x) := ⟨_, rfl, rfl, rfl⟩
theorem dec (x : Nat) : Statement (.dec x) := ⟨_, rfl, rfl, rfl⟩
theorem deca : Statement .deca := ⟨_, rfl, rfl, rfl⟩
theorem jmp (x : Nat) : Statement (.jmp x) := ⟨_, rfl, rfl, rfl⟩
theorem cmp (x y : Nat) : Statement (.cmp x y) := ⟨_, rfl, rfl, rfl⟩
theorem jz (x : Nat) : Statement (.jz x) := ⟨_, rfl, rfl, rfl⟩

/-- Every instruction has its row. -/
theorem all (i : Instr) : Statement i := by
  cases i
  case noop => exact noop
  case rst => exact rst
  case clr => exact clr _
  case inc => exact inc _
  case sum => exact sum _ _
  case mov => exact mov _ _
  case clra => exact clra
  case inca => exact inca
  case adda => exact adda _
  case ld => exact ld _ _
  case st => exact st _ _
  case sub => exact sub _ _
  case suba => exact suba _
  case dec => exact dec _
  case deca => exact deca
  case jmp => exact jmp _
  case cmp => exact cmp _ _
  case jz => exact jz _

end Sys2Proof.Laws.TableRow
end

