-- ==== Sys2Proof/Laws/Step.lean ====
section
/-! SUPPORT. What an instruction, a pipeline state, the RAM half and a step can do, said once. -/

namespace Sys2Proof.Machine

variable {c : Config} (m : Mach c)

/-- Every instruction answers a next state of the same machine: a machine fault is one (60_exceptions R222). -/
theorem exec_next (i : Instr) : ∃ t : Mach c, exec i ⟨c, m⟩ = .next ⟨c, t⟩ := by
  cases i <;> exact ⟨_, rfl⟩

/-- Every pipeline state answers a next state of the same machine. -/
theorem pipelineStep_next : ∃ t : Mach c, pipelineStep ⟨c, m⟩ = .next ⟨c, t⟩ := by
  unfold pipelineStep
  split
  · exact ⟨_, rfl⟩
  · exact ⟨_, rfl⟩
  · exact ⟨_, rfl⟩
  · exact ⟨_, rfl⟩
  · unfold execute1Step
    split
    · exact exec_next m _
    · exact ⟨_, rfl⟩
  · unfold execute2Step
    split
    · exact ⟨_, rfl⟩
    · exact exec_next m _
  · exact ⟨_, rfl⟩
  · exact ⟨_, rfl⟩

/-- Everything the RAM half can do: nothing, a host error, a write of one word, or a read into DATA (20_memory R54). -/
theorem Mach.serviceRequest_eq :
    m.serviceRequest =
      if m.en = false then some m
      else if c.ramWords ≤ m.addr.toNat then none
      else if m.wr then some { m with ram := Ram.write m.ram m.addr.toNat m.data }
      else some { m with data := Ram.read m.ram m.addr.toNat } := by
  unfold Mach.serviceRequest
  cases m.en <;> rfl

/-- The RAM half with no request does nothing (20_memory R54). -/
theorem Mach.serviceRequest_idle (h : m.en = false) : m.serviceRequest = some m := by
  rw [Mach.serviceRequest_eq, if_pos h]

/-- The RAM half changes RAM and DATA only. -/
theorem Mach.serviceRequest_some {m t : Mach c} (h : m.serviceRequest = some t) :
    t = { m with ram := t.ram, data := t.data } := by
  rw [Mach.serviceRequest_eq] at h
  split at h
  · cases h; rfl
  · split at h
    · cases h
    · split at h <;> cases h <;> rfl

/-- The RAM half keeps the canonical form. -/
theorem Mach.serviceRequest_wf {m t : Mach c} (h : m.serviceRequest = some t) (hw : Ram.wf c.ramWords m.ram = true) :
    Ram.wf c.ramWords t.ram = true := by
  rw [Mach.serviceRequest_eq] at h
  split at h
  · cases h; exact hw
  · split at h
    · cases h
    · split at h <;> cases h
      · exact Ram.write_wf hw (by omega)
      · exact hw

/-- A CPU tick past its halt guard (41_pipeline R130 to R132). -/
theorem cpuTick_running (h : m.terminated = false) :
    ∃ t : Mach c, pipelineStep ⟨c, { m with en := false }⟩ = .next ⟨c, t⟩ ∧ cpuTick ⟨c, m⟩ = .next (⟨c, t⟩, true) := by
  obtain ⟨t, ht⟩ := pipelineStep_next { m with en := false }
  refine ⟨t, ht, ?_⟩
  rw [cpuTick, if_neg (by simp [h])]
  simp only [State.clearEnable, ht]

/-- A halted machine steps to itself (41_pipeline R142). -/
theorem step_halted (h : m.terminated = true) : step ⟨c, m⟩ = .next ⟨c, m⟩ := by
  simp [step, tick, h]

/-- A step of a running machine whose RAM half completes is its pipeline state on the serviced state, with EN cleared
(41_pipeline R142, R131). -/
theorem step_running {t : Mach c} (h : m.terminated = false) (hs : m.serviceRequest = some t) :
    step ⟨c, m⟩ = pipelineStep ⟨c, { t with en := false }⟩ := by
  have ht : t.terminated = false := by
    rw [Mach.serviceRequest_some hs]
    exact h
  obtain ⟨u, hu, hc⟩ := cpuTick_running t ht
  rw [step, tick, if_neg (by simp [h])]
  simp only [ramTick, hs, hc, hu]

/-- A step of a running machine whose RAM half is a host error stops (20_memory R52). -/
theorem step_hostError (h : m.terminated = false) (hs : m.serviceRequest = none) :
    step ⟨c, m⟩ = .fault .ramAddressOutOfRange := by
  simp [step, tick, h, ramTick, hs]

/-- Everything a step can do. -/
theorem step_cases :
    (m.terminated = true ∧ step ⟨c, m⟩ = .next ⟨c, m⟩) ∨
    (m.terminated = false ∧ m.serviceRequest = none ∧ step ⟨c, m⟩ = .fault .ramAddressOutOfRange) ∨
    (∃ t u : Mach c, m.terminated = false ∧ m.serviceRequest = some t ∧
      pipelineStep ⟨c, { t with en := false }⟩ = .next ⟨c, u⟩ ∧ step ⟨c, m⟩ = .next ⟨c, u⟩) := by
  cases hm : m.terminated
  · cases hs : m.serviceRequest with
    | none => exact .inr (.inl ⟨rfl, rfl, step_hostError m hm hs⟩)
    | some t =>
      obtain ⟨u, hu⟩ := pipelineStep_next { t with en := false }
      exact .inr (.inr ⟨t, u, rfl, rfl, hu, by rw [step_running m hm hs, hu]⟩)
  · exact .inl ⟨rfl, step_halted m hm⟩

end Sys2Proof.Machine
end

