-- ==== Sys2Proof/Tests/Slice0.lean ====
section
/-! SUPPORT. The model's own tests, with their expected results from 95_test_vectors (the vector's id stands at each test)
or from a rule, and a witness for the hypotheses of every statement. -/

namespace Sys2Proof.Tests

open Sys2Proof.Machine

/-! ## Helpers -/

/-- The reset state in the default configuration, with an empty RAM. -/
def start : Mach Config.default := Mach.initial Config.default []

/-- The reset state in the 4-bit configuration. -/
def start4 : Mach Config.narrow := Mach.initial Config.narrow []

/-- The default configuration with 16 words of RAM, for addresses beyond RAM. -/
def smallRam : Config := ⟨8, 128, 16, by decide, by decide⟩

/-- The machine about to execute the instruction of the words v, x and y. -/
def ready {c : Config} (v x y : Word c.w) (m : Mach c) : State := ⟨c, m.fetched v x y⟩

/-- What `f` reads in the next state, where there is one. -/
def see {α : Type} (o : Host.Outcome State Fault Refusal) (f : State → α) : Option α :=
  match o with
  | .next t => some (f t)
  | _ => none

/-- CR[i], for a test that reads one register. -/
def creg (s : State) (i : Nat) : Nat := ((s.mach.cr.toList)[i]?.map BitVec.toNat).getD 0

/-- IP and Counter. -/
def place (s : State) : Nat × Nat := (s.mach.ip.toNat, s.mach.counter.toNat)

/-- Overflow, Terminated, Fatal and Zero. -/
def flags (s : State) : List Bool := [s.mach.overflow, s.mach.terminated, s.mach.fatal, s.mach.zero]

/-! ## WellFormed refuses each ill-formed term (30_encoding R83, R84, R88) -/

theorem test_wf_operand_too_large : (Instr.clr 256).wf 8 = false := by decide
theorem test_wf_second_operand_too_large : (Instr.mov 0 16).wf 4 = false := by decide
theorem test_wf_cmp_needs_five_bits : (Instr.cmp 0 0).wf 4 = false ∧ (Instr.cmp 0 0).wf 5 = true := by decide
theorem test_wf_jz_needs_five_bits : (Instr.jz 0).wf 4 = false ∧ (Instr.jz 31).wf 5 = true := by decide
theorem test_wf_bad_index_is_well_formed : (Instr.inc 255).wf 8 = true := by decide

/-! ## Decode: each constructor's word, from the opcode map (30_encoding R85) -/

theorem test_decode_noop : decode [0b00000000#8] = .ok (.noop, []) := by rfl
theorem test_decode_rst : decode [0b00000001#8] = .ok (.rst, []) := by rfl
theorem test_decode_clr : decode [0b00000010#8, 0b00000010#8] = .ok (.clr 2, []) := by rfl
theorem test_decode_inc : decode [0b00000011#8, 0b00000111#8] = .ok (.inc 7, []) := by rfl
theorem test_decode_sum : decode [0b00000100#8, 0b00000000#8, 0b00000001#8] = .ok (.sum 0 1, []) := by rfl
theorem test_decode_mov : decode [0b00000101#8, 0b00000001#8, 0b00000000#8] = .ok (.mov 1 0, []) := by rfl
theorem test_decode_clra : decode [0b00000110#8, 0b11111111#8] = .ok (.clra, [0b11111111#8]) := by rfl
theorem test_decode_inca : decode [0b00000111#8] = .ok (.inca, []) := by rfl
theorem test_decode_adda : decode [0b00001000#8, 0b00000001#8] = .ok (.adda 1, []) := by rfl
theorem test_decode_ld : decode [0b00001001#8, 0b00000001#8, 0b00000010#8] = .ok (.ld 1 2, []) := by rfl
theorem test_decode_st : decode [0b00001010#8, 0b00000010#8, 0b00000000#8] = .ok (.st 2 0, []) := by rfl
theorem test_decode_sub : decode [0b00001011#8, 0b00000001#8, 0b00000000#8] = .ok (.sub 1 0, []) := by rfl
theorem test_decode_suba : decode [0b00001100#8, 0b00000010#8] = .ok (.suba 2, []) := by rfl
theorem test_decode_dec : decode [0b00001101#8, 0b00000000#8] = .ok (.dec 0, []) := by rfl
theorem test_decode_deca : decode [0b00001110#8] = .ok (.deca, []) := by rfl
theorem test_decode_jmp : decode [0b00001111#8, 0b00001010#8] = .ok (.jmp 10, []) := by rfl
theorem test_decode_cmp : decode [0b00010010#8, 0b00000001#8, 0b00000000#8] = .ok (.cmp 1 0, []) := by rfl
theorem test_decode_jz : decode [0b00010011#8, 0b00010001#8] = .ok (.jz 17, []) := by rfl
/-- P-1 to P-4: the whole word is matched, so 0x83 is not INC. -/
theorem test_decode_illegal : ∀ v ∈ [0x10#8, 0x11#8, 0x14#8, 0x83#8, 0xFF#8],
    (match decode [v, 0#8, 0#8] with | .error .unknownOpcode => true | _ => false) = true := by decide
theorem test_decode_truncated : decode [0x04#8, 0x00#8] = .error .truncated := by rfl
theorem test_encode_sub : encode 8 (.sub 1 0) = [0x0B#8, 0x01#8, 0x00#8] := by decide
theorem test_table_word_with_operands : decodeTableWord 24 0x020109 = some (.ld 1 2) := by rfl
theorem test_table_word_of_the_opcode_alone : decodeTableWord 8 0x13 = some (.jz 0) := by rfl

/-! ## The ALU (L1.1) -/

theorem test_add_8 : addW (0x12#8) 0x34#8 = (0x46#8, false) ∧ addW (0xFF#8) 0x01#8 = (0#8, true) ∧
    addW (0x81#8) 0x81#8 = (0x02#8, true) := by decide
theorem test_sub_8 : subW (0x05#8) 0x03#8 = (0x02#8, false) ∧ subW (0x00#8) 0x01#8 = (0xFF#8, true) ∧
    subW (0x01#8) 0xFF#8 = (0x02#8, true) := by decide
theorem test_add_1 : addW (1#1) 1#1 = (0#1, true) ∧ addW (1#1) 0#1 = (1#1, false) := by decide
theorem test_sub_4 : subW (0x9#4) 0x3#4 = (0x6#4, false) ∧ subW (0x3#4) 0x5#4 = (0xE#4, true) := by decide

/-! ## The instructions, one step each (L2) -/

/-- C-2. -/
theorem test_noop_clears_overflow :
    see (step (ready 0x00 0 0 { start with overflow := true })) (fun s => (flags s, place s)) =
      some ([false, false, false, false], (1, 1)) := by decide
/-- C-3. -/
theorem test_noop_full_counter_faults :
    see (step (ready 0x00 0 0 { start with counter := 0xFF#8 })) (fun s => (flags s, place s)) =
      some ([true, true, true, false], (0, 0)) := by decide
/-- C-4. -/
theorem test_rst_halts_and_commits :
    see (step (ready 0x01 0 0 start)) (fun s => (flags s, place s, s.mach.pipelineState)) =
      some ([false, true, false, false], (1, 1), .fetch) := by decide
/-- C-5. -/
theorem test_rst_at_the_last_word_faults :
    see (step (ready 0x01 0 0 { start with ip := 0xFF#8 })) (fun s => (flags s, place s)) =
      some ([true, true, true, false], (0, 1)) := by decide
/-- R-1. -/
theorem test_clr : see (step (ready 0x02 2 0 { start with cr := start.cr.set 2 0x55#8 }))
    (fun s => (creg s 2, place s)) = some (0, (2, 1)) := by decide
/-- R-2. -/
theorem test_clr_beyond_faults :
    see (step (ready 0x02 8 0 start)) (fun s => (flags s, place s, s.mach.pipelineState)) =
      some ([false, true, true, false], (0, 0), .execute1) := by decide
/-- R-4. -/
theorem test_inc_wraps : see (step (ready 0x03 0 0 { start with cr := start.cr.set 0 0xFF#8 }))
    (fun s => (creg s 0, flags s)) = some (0, [false, false, false, false]) := by decide
/-- R-12 (W = 4). -/
theorem test_inc_wraps_4 : see (step (ready 0x3 0 0 { start4 with cr := start4.cr.set 0 0xF#4 }))
    (fun s => (creg s 0, place s)) = some (0, (2, 1)) := by decide
/-- R-6. -/
theorem test_mov : see (step (ready 0x05 0 1 { start with cr := start.cr.set 1 0x07#8 }))
    (fun s => (creg s 0, creg s 1, place s)) = some (7, 7, (3, 1)) := by decide
/-- R-9. -/
theorem test_mov_source_beyond_faults : see (step (ready 0x05 0 8 { start with cr := start.cr.set 0 0x01#8 }))
    (fun s => (creg s 0, flags s)) = some (1, [false, true, true, false]) := by decide
/-- R-10. -/
theorem test_dec_wraps : see (step (ready 0x0D 0 0 start)) (fun s => (creg s 0, flags s)) =
    some (0xFF, [false, false, false, false]) := by decide
/-- A-1. -/
theorem test_sum_wraps :
    see (step (ready 0x04 0 1 { start with cr := (start.cr.set 0 0xFF#8).set 1 0x01#8, ar := 0x99#8 }))
      (fun s => (s.mach.ar.toNat, flags s, place s)) = some (0, [false, false, false, false], (3, 1)) := by decide
/-- A-16 (W = 4). -/
theorem test_sum_4 : see (step (ready 0x4 0 1 { start4 with cr := (start4.cr.set 0 0x9#4).set 1 0x8#4 }))
    (fun s => s.mach.ar.toNat) = some 1 := by decide
/-- A-4. -/
theorem test_clra : see (step (ready 0x06 0 0 { start with ar := 0x5A#8 })) (fun s => (s.mach.ar.toNat, place s)) =
    some (0, (1, 1)) := by decide
/-- A-6. -/
theorem test_inca_wraps : see (step (ready 0x07 0 0 { start with ar := 0xFF#8 }))
    (fun s => (s.mach.ar.toNat, flags s)) = some (0, [false, false, false, false]) := by decide
/-- A-7. -/
theorem test_adda : see (step (ready 0x08 1 0 { start with ar := 0xF0#8, cr := start.cr.set 1 0x20#8 }))
    (fun s => (s.mach.ar.toNat, creg s 1)) = some (0x10, 0x20) := by decide
/-- A-10. -/
theorem test_sub_wraps : see (step (ready 0x0B 1 0 { start with cr := (start.cr.set 1 0x01#8).set 0 0xFF#8 }))
    (fun s => (s.mach.ar.toNat, flags s)) = some (2, [false, false, false, false]) := by decide
/-- A-9. -/
theorem test_sub : see (step (ready 0x0B 0 1 { start with cr := (start.cr.set 0 0x05#8).set 1 0x03#8 }))
    (fun s => s.mach.ar.toNat) = some 2 := by decide
/-- A-12. -/
theorem test_suba : see (step (ready 0x0C 2 0 { start with ar := 0x05#8, cr := start.cr.set 2 0x03#8 }))
    (fun s => (s.mach.ar.toNat, place s)) = some (2, (2, 1)) := by decide
/-- A-15. -/
theorem test_deca_wraps : see (step (ready 0x0E 0 0 start)) (fun s => (s.mach.ar.toNat, place s)) =
    some (0xFF, (1, 1)) := by decide
/-- M-1. -/
theorem test_ld_first_phase : see (step (ready 0x09 0 1 { start with cr := start.cr.set 0 0x05#8, ram := [(5, 0xA5#8)] }))
    (fun s => (s.mach.pipelineState, s.mach.en, s.mach.addr.toNat, creg s 1, place s)) =
      some (.execute2, true, 5, 0, (0, 0)) := by decide
/-- M-3: from the state after M-1's first phase, with y = 0. -/
theorem test_ld_second_phase :
    see (step ⟨Config.default, { start with
      pipelineState := .execute2, commandCode := 0x09#8, cr := start.cr.set 0 0x05#8, ram := [(5, 0xA5#8)]
      en := true, addr := 5#8 }⟩) (fun s => (creg s 0, place s, s.mach.pipelineState)) =
      some (0xA5, (3, 1), .fetch) := by decide
/-- M-7. -/
theorem test_st_requests : see (step (ready 0x0A 1 0 { start with cr := (start.cr.set 1 0x2A#8).set 0 0x07#8 }))
    (fun s => ((s.mach.en, s.mach.wr, s.mach.addr.toNat, s.mach.data.toNat), s.mach.ram.length, place s)) =
      some ((true, true, 7, 0x2A), 0, (3, 1)) := by decide
/-- M-8: the RAM half of the tick after M-7. -/
theorem test_st_lands :
    see (step ⟨Config.default, { start with ip := 3#8, en := true, wr := true, addr := 7#8, data := 0x2A#8 }⟩)
      (fun s => ((Ram.read s.mach.ram 7).toNat, s.mach.wr, s.mach.addr.toNat)) = some (0x2A, false, 3) := by decide
/-- L1.7. -/
theorem test_jmp : see (step (ready 0x0F 0x0A 0 start)) place = some (0x0A, 1) := by decide
/-- P4's last pass (W = 4). -/
theorem test_jmp_full_counter_faults : see (step (ready 0xF 0 0 { start4 with counter := 0xF#4 }))
    (fun s => (flags s, place s, s.mach.pipelineState)) =
      some ([true, true, true, false], (0, 0), .execute1) := by decide
/-- R211's example: equal operands. -/
theorem test_cmp_equal : see (step (ready 0x12 1 0 start)) (fun s => (flags s, place s)) =
    some ([false, false, false, true], (3, 1)) := by decide
/-- B-9. -/
theorem test_cmp_beyond_faults : see (step (ready 0x12 8 0 { start with zero := true })) flags =
    some [false, true, true, true] := by decide
/-- B-10. -/
theorem test_jz_taken : see (step (ready 0x13 0x11 0 { start with zero := true })) (fun s => (place s, flags s)) =
    some ((0x11, 1), [false, false, false, true]) := by decide
/-- B-13. -/
theorem test_jz_falls_through_and_carries : see (step (ready 0x13 0x03 0 { start with ip := 0xFE#8 }))
    (fun s => (flags s, place s)) = some ([true, true, true, false], (0, 1)) := by decide

/-! ## The pipeline, the strobes and the host's view -/

/-- L1.5, tick 1. -/
theorem test_fetch_tick : see (step ⟨Config.default, { start with ram := [(0, 0x09#8)] }⟩)
    (fun s => (s.mach.pipelineState, s.mach.en, s.mach.wr, s.mach.addr.toNat)) = some (.decode, true, false, 0) := by decide
/-- L1.5, tick 2. -/
theorem test_decode_tick :
    see (step ⟨Config.default, { start with pipelineState := .decode, en := true, ram := [(0, 0x09#8)] }⟩)
      (fun s => (s.mach.pipelineState, s.mach.commandCode.toNat, s.mach.addr.toNat)) = some (.read1, 0x09, 1) := by decide
/-- P-5. -/
theorem test_decode_without_room_faults :
    see (step ⟨Config.default, { start with
      pipelineState := .decode, ip := 0xFF#8, en := true, addr := 0xFF#8, ram := [(0xFF, 0x03#8)] }⟩)
      (fun s => (flags s, s.mach.pipelineState, s.mach.commandCode.toNat)) =
        some ([false, true, true, false], .decode, 3) := by decide
/-- P-10. -/
theorem test_execute2_of_another_opcode_faults :
    see (step ⟨Config.default, { start with pipelineState := .execute2, commandCode := 0x03#8 }⟩)
      (fun s => (flags s, s.mach.pipelineState)) = some ([false, true, true, false], .execute2) := by decide
/-- M-6: an address beyond RAM is a host error of the RAM half. -/
theorem test_address_beyond_ram : (match step ⟨smallRam, { Mach.initial smallRam [] with en := true, addr := 0x20#8 }⟩ with
    | .fault .ramAddressOutOfRange => true
    | _ => false) = true := by decide
/-- H-3. -/
theorem test_tick_zero_times : (match tickN 0 State.reset with
    | .next (_, b) => b
    | _ => false) = true := by decide
/-- L1.9. -/
theorem test_ram_bits : ({ start with ram := [(1, 0x09#8)] } : Mach Config.default).ramImage.toNat = 0x900 := by
  decide +kernel
/-- L1.10. -/
theorem test_cn_count : Config.default.cnCount = 8 ∧ Config.narrow.cnCount = 8 ∧
    Config.cnCount ⟨8, 64, 0, by decide, by decide⟩ = 0 ∧ Config.cnCount ⟨8, 100, 0, by decide, by decide⟩ = 4 ∧
    Config.unusedBits ⟨8, 100, 0, by decide, by decide⟩ = 4 := by decide
/-- L1.10, the refused construction, and each other check (70_reset R250). -/
theorem test_construct_refuses : construct 8 60 0 [] = .error .cpuMemoryTooSmall ∧
    construct 3 64 0 [] = .error .wordTooNarrow ∧ construct 8 64 2 [0#8] = .error .wrongImageLength := by
  refine ⟨rfl, rfl, rfl⟩
theorem test_construct_drops_zero_words : (match construct 8 64 3 [9#8, 0#8, 1#8] with
    | .ok s => s.mach.ram.map fun e => (e.1, e.2.toNat)
    | .error _ => []) = [(0, 9), (2, 1)] := by decide
/-- Writing what an unlisted word reads as removes the entry (log 3). -/
theorem test_ram_write_zero : Ram.write [(3, 9#8), (5, 1#8)] 3 0#8 = [(5, 1#8)] ∧
    Ram.wf 256 [(3, 9#8), (5, 1#8)] = true ∧ Ram.wf 256 [(3, 0#8)] = false ∧ Ram.wf 4 [(5, 1#8)] = false := by decide
/-- The host's placing of a row: LD runs its first phase as the first instruction after reset. -/
theorem test_with_fetch_word : see (step (State.reset.withFetchWord 8 0x09))
    (fun s => (s.mach.pipelineState, (Ram.read s.mach.ram 0).toNat)) = some (.execute2, 9) := by decide

/-! ## Witnesses: for every statement with hypotheses, states and operands that meet all of them together, for each clause at
a boundary of its range. A witness names the statement it is for. -/

/-- The default machine in the state `m`. -/
abbrev on (m : Mach Config.default) : State := ⟨Config.default, m⟩

/-- The outcome is a next one that `p` holds of. -/
def nextWith {α : Type} (o : Host.Outcome α Fault Refusal) (p : α → Bool) : Bool :=
  match o with
  | .next a => p a
  | _ => false

theorem nextWith_elim {α : Type} {o : Host.Outcome α Fault Refusal} {p : α → Bool} (h : nextWith o p = true) :
    ∃ a, o = .next a ∧ p a = true := by
  cases o with
  | next a => exact ⟨a, rfl, h⟩
  | fault f => cases h
  | refused r => cases h

/-- A strobe that answers a next state answers one of the same machine. -/
theorem strobe_answers {c : Config} {m : Mach c} {strobe : State → StrobeOutcome} (hs : strobe ∈ [tick, tickRam, tickCpu])
    {p : State × Bool → Bool} (h : nextWith (strobe ⟨c, m⟩) p = true) :
    ∃ (t : Mach c) (b : Bool), strobe ⟨c, m⟩ = .next (⟨c, t⟩, b) ∧ p (⟨c, t⟩, b) = true := by
  obtain ⟨⟨s, b⟩, ho, hp⟩ := nextWith_elim h
  have key : ∃ t : Mach c, s = ⟨c, t⟩ := by
    have cpu : ∀ n : Mach c, cpuTick ⟨c, n⟩ = .next (s, b) → ∃ t : Mach c, s = ⟨c, t⟩ := by
      intro n hn
      by_cases ht : n.terminated = false
      · obtain ⟨t, _, hc⟩ := cpuTick_running n ht
        rw [hc] at hn
        cases hn
        exact ⟨t, rfl⟩
      · rw [cpuTick, if_pos (by simpa using ht)] at hn
        cases hn
        exact ⟨n, rfl⟩
    have ram : ∀ n, ramTick ⟨c, m⟩ = .next n → ∃ t : Mach c, n.1 = ⟨c, t⟩ := by
      intro n hn
      unfold ramTick at hn
      split at hn
      · cases hn
        exact ⟨_, rfl⟩
      · cases hn
    simp only [List.mem_cons, List.not_mem_nil, or_false] at hs
    rcases hs with e | e | e <;> subst e
    · unfold tick at ho
      split at ho
      · cases ho
        exact ⟨m, rfl⟩
      · split at ho
        · rename_i n b' hn
          obtain ⟨t, ht⟩ := ram _ hn
          subst ht
          exact cpu t ho
        · cases ho
        · cases ho
    · unfold tickRam at ho
      split at ho
      · cases ho
        exact ⟨m, rfl⟩
      · exact ram _ ho
    · exact cpu m ho
  obtain ⟨t, e⟩ := key
  subst e
  exact ⟨t, b, ho, hp⟩

/-- A step that answers a next state answers one of the same machine. -/
theorem step_answers {c : Config} {m : Mach c} {p : State → Bool} (h : nextWith (step ⟨c, m⟩) p = true) :
    ∃ t : Mach c, step ⟨c, m⟩ = .next ⟨c, t⟩ ∧ p ⟨c, t⟩ = true := by
  rcases step_cases m with ⟨_, e⟩ | ⟨_, _, e⟩ | ⟨_, u, _, _, _, e⟩ <;> rw [e] at h ⊢
  · exact ⟨m, rfl, h⟩
  · cases h
  · exact ⟨u, rfl, h⟩

/-- A run that answers a next state answers one of the same machine. -/
theorem run_answers {c : Config} (n : Nat) {m : Mach c} (h : nextWith (run n ⟨c, m⟩) (fun _ => true) = true) :
    ∃ t : Mach c, run n ⟨c, m⟩ = .next ⟨c, t⟩ := by
  induction n generalizing m with
  | zero => exact ⟨m, rfl⟩
  | succ n ih =>
    rw [run] at h ⊢
    rcases step_cases m with ⟨_, e⟩ | ⟨_, _, e⟩ | ⟨_, u, _, _, _, e⟩ <;> rw [e] at h ⊢
    · exact ih h
    · cases h
    · exact ih h

/-- The default machine about to execute the words v, x and y, with CR[0] = 5 and CR[7] = 255. -/
def at1 (v x y : Word 8) : Mach Config.default :=
  Mach.fetched { start with cr := (start.cr.set 0 5#8).set 7 0xFF#8 } v x y

/-- The default machine one commit before its Counter is full, at the given IP. -/
def late (ip : Word 8) : Mach Config.default := { start with counter := 0xFE#8, ip := ip }

/-- The default machine with its Counter full. -/
def full : Mach Config.default := { start with counter := 0xFF#8 }

/-- A halted machine. -/
def halted : Mach Config.default := { start with terminated := true }

/-- A machine with a pending request at the given address. -/
def pending (wr : Bool) (addr : Word 8) : Mach Config.default :=
  { start with en := true, wr := wr, addr := addr, data := 0x2A#8 }

theorem witness_DecodingAnEncodingGivesTheInstructionBack :
    (Instr.cmp 255 0).wf 8 = true ∧ (Instr.jmp 15).wf 4 = true ∧ Instr.noop.wf 0 = true := by decide

theorem witness_DecodedWordsAreTheEncodingOfTheirInstruction :
    decode [0x13#8, 0xFF#8, 0x07#8] = .ok (.jz 255, [0x07#8]) := by rfl

theorem witness_ExactlyTheUnlistedOpcodesAreIllegal :
    (∀ v ∈ [0x0F#8, 0x12#8, 0x13#8], ¬ (v.toNat = 0x10 ∨ v.toNat = 0x11 ∨ 0x14 ≤ v.toNat)) ∧
    (∀ v ∈ [0x10#8, 0x11#8, 0x14#8, 0xFF#8],
      let m : Mach Config.default := { start with pipelineState := .decode, data := v }
      m.terminated = false ∧ m.pipelineState = .decode ∧
        (m.data.toNat = 0x10 ∨ m.data.toNat = 0x11 ∨ 0x14 ≤ m.data.toNat)) := by decide

theorem witness_CmpAndJzNeedFiveBits :
    (∀ x y, Instr.jmp 15 ≠ .cmp x y) ∧ (∀ x, Instr.jmp 15 ≠ .jz x) := by
  constructor <;> simp

theorem witness_ConstructionMakesTheThreeChecks :
    (∃ s, construct 4 32 1 [0xF#4] = .ok s) ∧ (4 : Nat) ≤ 4 ∧ 8 * 4 ≤ 32 ∧ [0xF#4].length = 1 :=
  ⟨⟨_, rfl⟩, by decide⟩

theorem witness_CpuMemoryHoldsEveryFieldAtItsReference : 15 < serviceRegisters + Config.default.cnCount := by decide

theorem witness_RegisterWriteIsTheInsertOfItsBitField :
    (14 : Nat) < 15 ∧ 15 < serviceRegisters + Config.default.cnCount := by decide

theorem witness_RamWordStandsAtItsBitOffset : (255 : Nat) < Config.default.ramWords := by decide

theorem witness_CanonicalRamIsDeterminedByItsWords :
    let r : Ram 8 := [(0, 1#8), (255, 9#8)]
    let s : Ram 8 := Ram.write [(0, 1#8)] 255 9#8
    Ram.wf 256 r = true ∧ Ram.wf 256 s = true ∧ ∀ a, Ram.read r a = Ram.read s a := by
  refine ⟨by decide, by decide, fun a => rfl⟩

theorem witness_RamTickServicesTheRequest :
    (start.terminated = false ∧ Ram.wf Config.default.ramWords start.ram = true ∧ start.en = false) ∧
    (∀ a ∈ [16#8, 0xFF#8],
      let m : Mach smallRam := { Mach.initial smallRam [(15, 1#8)] with en := true, addr := a }
      m.terminated = false ∧ Ram.wf smallRam.ramWords m.ram = true ∧ m.en = true ∧ smallRam.ramWords ≤ m.addr.toNat) ∧
    (∀ wr ∈ [true, false], ∀ a ∈ [0#8, 0xFF#8],
      (pending wr a).terminated = false ∧ Ram.wf Config.default.ramWords (pending wr a).ram = true ∧
        (pending wr a).en = true ∧ (pending wr a).addr.toNat < Config.default.ramWords ∧ (pending wr a).wr = wr) := by
  decide

theorem witness_ServicingARequestTwiceIsServicingItOnce :
    Ram.wf Config.default.ramWords (pending true 0xFF#8).ram = true ∧ (pending true 0xFF#8).terminated = false ∧
      ∃ t b, tickRam (on (pending true 0xFF#8)) = .next (on t, b) ∧ b = true :=
  ⟨by decide, by decide, strobe_answers (p := fun r => r.2) (by simp) (by decide)⟩

theorem witness_OnlyAServicedWriteChangesRam :
    (∃ t b, tickCpu (on (pending true 0xFF#8)) = .next (on t, b) ∧ true = true) ∧
    Ram.wf Config.default.ramWords (pending true 0xFF#8).ram = true ∧
    (∃ t, step (on (pending true 0xFF#8)) = .next (on t) ∧ t.ram.length = 1) ∧
    (pending true 0xFF#8).terminated = false ∧ (pending true 0xFF#8).en = true ∧ (pending true 0xFF#8).wr = true ∧
    (∃ t, step (on halted) = .next (on t) ∧ true = true) := by
  refine ⟨strobe_answers (p := fun _ => true) (by simp) (by decide), by decide, ?_, rfl, rfl, rfl,
    step_answers (p := fun _ => true) (by decide)⟩
  simpa using step_answers (m := pending true 0xFF#8) (p := fun s => decide (s.mach.ram.length = 1)) (by decide)

theorem witness_HaltedMachineIsQuiescent : State.halted (on halted) := rfl

theorem witness_TerminatedIsStickyAndStopsEveryTick :
    (∃ t, exec .rst (on start) = .next (on t)) ∧ (∃ t, exec .noop (on full) = .next (on t) ∧ t.terminated = true) ∧
    halted.terminated = true ∧ (∃ t, exec .noop (on halted) = .next (on t)) ∧
    (∃ t b, tick (on (at1 1 0 0)) = .next (on t, b) ∧ t.terminated = true) ∧ (at1 1 0 0).terminated = false ∧
    (∃ t b, tickRam (on halted) = .next (on t, b) ∧ b = false) :=
  ⟨exec_next start _, ⟨_, exec_noop full, by decide⟩, rfl, exec_next halted _,
    strobe_answers (p := fun r => r.1.mach.terminated) (by simp) (by decide), rfl,
    ⟨halted, false, rfl, rfl⟩⟩

theorem witness_FatalIsStickyAndReadByNoInstruction :
    (∃ t b, tickCpu (on (at1 2 8 0)) = .next (on t, b) ∧ t.fatal = true) ∧ (at1 2 8 0).fatal = false ∧
    (∃ t b, tick (on { halted with fatal := true }) = .next (on t, b) ∧ true = true) ∧
    (∃ t, exec (.inc 7) (on start) = .next (on t)) :=
  ⟨strobe_answers (p := fun r => r.1.mach.fatal) (by simp) (by decide), rfl,
    strobe_answers (p := fun _ => true) (by simp) (by decide), exec_next start _⟩

theorem witness_OverflowIsOverwrittenAndReadByNoInstruction :
    ∃ t, exec (.ld 0 7) (on { start with overflow := true }) = .next (on t) := exec_next _ _

theorem witness_ZeroIsWrittenByCmpAndReadByJzOnly :
    (∃ t b, tickCpu (on (at1 0x12 0 0)) = .next (on t, b) ∧ t.zero = true) ∧ (at1 0x12 0 0).zero = false ∧
    (∃ t b, tickRam (on (pending true 7#8)) = .next (on t, b) ∧ true = true) ∧
    0 < Config.default.cnCount ∧ 7 < Config.default.cnCount ∧ (∃ t, exec (.cmp 0 7) (on start) = .next (on t)) ∧
    (∀ x, Instr.cmp 0 7 ≠ .jz x) ∧ (at1 4 0 7).commandCode.toNat ≠ 0x13 ∧
    (∃ t, step (on (at1 4 0 7)) = .next (on t) ∧ true = true) :=
  ⟨strobe_answers (p := fun r => r.1.mach.zero) (by simp) (by decide), rfl,
    strobe_answers (p := fun _ => true) (by simp) (by decide), by decide, by decide, exec_next start _, by simp,
    by decide, step_answers (p := fun _ => true) (by decide)⟩

theorem witness_AccumulatorReachesOnlyItself :
    (∃ t b, tickCpu (on (at1 7 0 0)) = .next (on t, b) ∧ true = true) ∧
    (∃ t, step (on (at1 4 0 7)) = .next (on t) ∧ true = true) :=
  ⟨strobe_answers (p := fun _ => true) (by simp) (by decide), step_answers (p := fun _ => true) (by decide)⟩

theorem witness_GhostRecordIsReadByNothing :
    ∃ t, step (on (at1 2 8 0)) = .next (on t) ∧ t.ghostCause.isSome = true :=
  step_answers (p := fun s => s.mach.ghostCause.isSome) (by decide)

theorem witness_CpuTickClearsEnableFirst :
    (pending true 7#8).terminated = false ∧ (at1 0 0 0).terminated = false ∧
    (∃ t b, cpuTick (on (pending true 7#8)) = .next (on t, b) ∧ t.en = true) ∧
    (∃ t b, cpuTick (on (at1 0 0 0)) = .next (on t, b) ∧ (!t.en) = true) :=
  ⟨rfl, rfl, strobe_answers (strobe := tickCpu) (p := fun r => r.1.mach.en) (by simp) (by decide),
    strobe_answers (strobe := tickCpu) (p := fun r => !r.1.mach.en) (by simp) (by decide)⟩

theorem witness_PairedTickRunsTheRamHalfFirst :
    let beyond : State := ⟨smallRam, { Mach.initial smallRam [] with en := true, addr := 16#8 }⟩
    ¬ State.halted (on (pending false 0xFF#8)) ∧
    (∃ t b, tickRam (on (pending false 0xFF#8)) = .next (on t, b) ∧ true = true) ∧
    ¬ beyond.halted ∧ tickRam beyond = .fault .ramAddressOutOfRange :=
  ⟨by simp [State.halted, pending, start, Mach.initial], strobe_answers (p := fun _ => true) (by simp) (by decide),
    by simp [State.halted, Mach.initial], rfl⟩

theorem witness_TickNHasTheEffectOfNTicks :
    (∃ r, tickN 0 (on start) = .next r ∧ true = true) ∧ (∃ t, run 1 (on start) = .next t ∧ true = true) ∧
    (∃ r : State × Bool, tickN (1 + 1) (on start) = .next r ∧ r.2 = true) ∧
    (∃ r : State × Bool, tickN (0 + 1) (on halted) = .next r ∧ (!r.2) = true) :=
  ⟨nextWith_elim (p := fun _ => true) (by decide), nextWith_elim (p := fun _ => true) (by decide),
    nextWith_elim (p := fun r : State × Bool => r.2) (by decide),
    nextWith_elim (p := fun r : State × Bool => !r.2) (by decide)⟩

theorem witness_FetchClearsScratchAndRequestsTheOpcode :
    let m : Mach smallRam := { Mach.initial smallRam [] with ip := 16#8 }
    m.terminated = false ∧ m.pipelineState = .fetch ∧ smallRam.ramWords ≤ m.ip.toNat := by decide

theorem witness_DecodeConsumesTheOpcode :
    (∃ row, lookup 0x0E = some row ∧ row.arity = 0) ∧ (∃ row, lookup 0x13 = some row ∧ row.arity ≠ 0) ∧
    (let m : Mach Config.default := { start with pipelineState := .decode, data := 0x13#8, ip := 0xFE#8 };
      m.terminated = false ∧ m.pipelineState = .decode ∧ m.data.toNat = 0x13 ∧ m.ip.toNat + 1 < 2 ^ Config.default.w) ∧
    (let m : Mach Config.default := { start with pipelineState := .decode, data := 0x13#8, ip := 0xFF#8 };
      m.terminated = false ∧ m.pipelineState = .decode ∧ m.data.toNat = 0x13 ∧ m.ip.toNat + 1 = 2 ^ Config.default.w) :=
  ⟨⟨_, rfl, rfl⟩, ⟨_, rfl, by decide⟩, by decide, by decide⟩

theorem witness_Read1ConsumesTheFirstArgument :
    (∀ mode ∈ [true, false], ∀ ip ∈ [0xFD#8, 0xFE#8, 0xFF#8],
      let m : Mach Config.default := { start with pipelineState := .read1, argumentMode := mode, ip := ip }
      m.terminated = false ∧ m.pipelineState = .read1 ∧ m.argumentMode = mode) ∧
    (0xFD#8).toNat + 2 < 2 ^ Config.default.w ∧ 2 ^ Config.default.w ≤ (0xFE#8).toNat + 2 := by decide

theorem witness_Read2ConsumesTheSecondArgument :
    let m : Mach Config.default := { start with pipelineState := .read2, data := 0xFF#8 }
    m.terminated = false ∧ m.pipelineState = .read2 := by decide

theorem witness_StatesNoRuleWritesAreFatal :
    (∀ p ∈ [PipelineState.invalid6, .invalid7],
      ({ start with pipelineState := p } : Mach Config.default).terminated = false) ∧
    (let m : Mach Config.default := { start with pipelineState := .execute2, commandCode := 0x0A#8 };
      m.terminated = false ∧ m.pipelineState = .execute2 ∧ m.commandCode.toNat ≠ 0x09) ∧
    (let m : Mach Config.default := { start with pipelineState := .execute1, commandCode := 0x14#8 };
      m.terminated = false ∧ m.pipelineState = .execute1 ∧ (lookup m.commandCode.toNat).isNone = true) := by decide

theorem witness_StepRunsTheDecodedInstruction :
    ((at1 9 0 7).terminated = false ∧ (at1 9 0 7).serviceRequest = some (at1 9 0 7) ∧
      (at1 9 0 7).pipelineState = .execute1 ∧ decode (at1 9 0 7).scratch = .ok (.ld 0 7, [])) ∧
    (let m : Mach Config.default := { pending false 0xFF#8 with pipelineState := .execute2, commandCode := 9#8 };
      m.terminated = false ∧ m.serviceRequest = some { m with data := 0#8 } ∧ m.pipelineState = .execute2 ∧
        m.commandCode.toNat = 0x09) :=
  ⟨⟨rfl, rfl, rfl, rfl⟩, ⟨rfl, rfl, rfl, rfl⟩⟩

/-- The default machine before its Fetch at 0xFD, with `CMP 0 7` in the last three words of RAM and a store pending. -/
def before : Mach Config.default :=
  { pending true 0#8 with ip := 0xFD#8, ram := [(0xFD, 0x12#8), (0xFF, 0x07#8)] }

/-- `before` once its store has landed. -/
def landed : Mach Config.default := { before with ram := [(0, 0x2A#8), (0xFD, 0x12#8), (0xFF, 0x07#8)] }

theorem witness_FetchedWordsReachTheirHandler :
    before.terminated = false ∧ before.pipelineState = .fetch ∧ before.serviceRequest = some landed ∧
      (Instr.cmp 0 7).wf Config.default.w = true ∧ landed.holds before.ip.toNat (encode Config.default.w (.cmp 0 7)) := by
  refine ⟨rfl, rfl, by decide, by decide, by decide, by decide, ?_⟩
  intro k hk
  have : k = 0 ∨ k = 1 ∨ k = 2 := by
    have : k < 3 := hk
    omega
  rcases this with h | h | h <;> subst h <;> rfl

theorem witness_InstructionTakesItsTicks :
    before.terminated = false ∧ before.fatal = false ∧ before.pipelineState = .fetch ∧
      before.serviceRequest = some landed ∧ (Instr.cmp 0 7).wf Config.default.w = true ∧
      landed.holds before.ip.toNat (encode Config.default.w (.cmp 0 7)) ∧ 0 < 4 ∧ 4 < instrTicks (.cmp 0 7) ∧
      (∃ u, run 4 (on before) = .next (on u)) ∧ (∃ u, run (instrTicks (.cmp 0 7)) (on before) = .next (on u)) ∧
      (∀ x y, Instr.cmp 0 7 ≠ .ld x y) := by
  have h := witness_FetchedWordsReachTheirHandler
  exact ⟨h.1, rfl, h.2.1, h.2.2.1, h.2.2.2.1, h.2.2.2.2, by decide, by decide, run_answers 4 (by decide),
    run_answers 5 (by decide), by simp⟩

/-- The clause of LD: `LD 0 7` at word 0, with its address in RAM. -/
theorem witness_InstructionTakesItsTicks_ld :
    let m : Mach Config.default := { start with ram := [(0, 0x09#8), (2, 0x07#8)] }
    m.terminated = false ∧ m.fatal = false ∧ m.pipelineState = .fetch ∧ m.serviceRequest = some m ∧
      (Instr.ld 0 7).wf Config.default.w = true ∧ m.holds m.ip.toNat (encode Config.default.w (.ld 0 7)) ∧
      ∃ hx : 0 < Config.default.cnCount, m.cr[0].toNat < Config.default.ramWords := by
  refine ⟨rfl, rfl, rfl, rfl, by decide, ⟨by decide, by decide, ?_⟩, by decide, by decide⟩
  intro k hk
  have : k = 0 ∨ k = 1 ∨ k = 2 := by
    have : k < 3 := hk
    omega
  rcases this with h | h | h <;> subst h <;> rfl

theorem witness_NoopOnlyCommitsAndRstHaltsNormally :
    (late 0xFE#8).canCommit 1 ∧ (late 0xFE#8).fatal = false := ⟨⟨by decide, by decide⟩, rfl⟩

theorem witness_RegisterInstructionsWriteTheirRegister :
    7 < Config.default.cnCount ∧ (late 0xFD#8).canCommit 2 ∧ (late 0xFC#8).canCommit 3 :=
  ⟨by decide, ⟨by decide, by decide⟩, ⟨by decide, by decide⟩⟩

theorem witness_AccumulatorInstructionsAccumulate :
    (late 0xFE#8).canCommit 1 ∧ 7 < Config.default.cnCount ∧ (late 0xFD#8).canCommit 2 :=
  ⟨⟨by decide, by decide⟩, by decide, ⟨by decide, by decide⟩⟩

theorem witness_SumAndSubWriteTheAccumulator :
    0 < Config.default.cnCount ∧ 7 < Config.default.cnCount ∧ (late 0xFC#8).canCommit 3 :=
  ⟨by decide, by decide, ⟨by decide, by decide⟩⟩

theorem witness_LdRequestsThenConsumes :
    7 < Config.default.cnCount ∧ start.pipelineState ≠ .execute2 ∧
    (let m : Mach Config.default := { late 0xFC#8 with pipelineState := .execute2 };
      m.pipelineState = .execute2 ∧ m.canCommit 3) :=
  ⟨by decide, by decide, rfl, ⟨by decide, by decide⟩⟩

/-- LD through a register that holds the last address of RAM, 0xFF. -/
theorem witness_LdLoadsItsWordInTwoTicks :
    ∃ (hx : 7 < Config.default.cnCount) (_ : 0 < Config.default.cnCount) (rest : List (Word Config.default.w)),
      (at1 9 7 0).terminated = false ∧ (at1 9 7 0).pipelineState = .execute1 ∧ (at1 9 7 0).en = false ∧
        decode (at1 9 7 0).scratch = .ok (.ld 7 0, rest) ∧ (at1 9 7 0).cr[7].toNat < Config.default.ramWords ∧
        (at1 9 7 0).canCommit 3 :=
  ⟨by decide, by decide, _, rfl, rfl, rfl, rfl, by decide, by decide, by decide⟩

theorem witness_StRequestsItsWriteAndCommits :
    0 < Config.default.cnCount ∧ 7 < Config.default.cnCount ∧ (late 0xFC#8).canCommit 3 :=
  ⟨by decide, by decide, ⟨by decide, by decide⟩⟩

/-- ST to the last word of RAM, 0xFF. -/
theorem witness_StLandsInTheNextTick :
    ∃ (_ : 0 < Config.default.cnCount) (hy : 7 < Config.default.cnCount) (rest : List (Word Config.default.w)),
      (at1 10 0 7).terminated = false ∧ (at1 10 0 7).pipelineState = .execute1 ∧ (at1 10 0 7).en = false ∧
        decode (at1 10 0 7).scratch = .ok (.st 0 7, rest) ∧
        Ram.wf Config.default.ramWords (at1 10 0 7).ram = true ∧
        (at1 10 0 7).cr[7].toNat < Config.default.ramWords ∧ (at1 10 0 7).canCommit 3 :=
  ⟨by decide, by decide, _, rfl, rfl, rfl, rfl, by decide, by decide, by decide, by decide⟩

/-- ST at 0xFC to the word after it, 0xFF. -/
theorem witness_StIsSeenByTheNextFetch :
    let m : Mach Config.default := { at1 10 0 7 with ip := 0xFC#8 }
    ∃ (_ : 0 < Config.default.cnCount) (hy : 7 < Config.default.cnCount) (rest : List (Word Config.default.w)),
      m.terminated = false ∧ m.pipelineState = .execute1 ∧ m.en = false ∧ decode m.scratch = .ok (.st 0 7, rest) ∧
        Ram.wf Config.default.ramWords m.ram = true ∧ m.canCommit 3 ∧ m.cr[7] = m.ip + fromValue Config.default.w 3 ∧
        m.cr[7].toNat < Config.default.ramWords :=
  ⟨by decide, by decide, _, rfl, rfl, rfl, rfl, by decide, ⟨by decide, by decide⟩, by decide, by decide⟩

theorem witness_JmpSetsIpToItsTarget :
    255 < 2 ^ Config.default.w ∧ (late 0xFF#8).counter.toNat + 1 < 2 ^ Config.default.w := by decide

theorem witness_CmpSetsZeroToEquality :
    0 < Config.default.cnCount ∧ 7 < Config.default.cnCount ∧ (late 0xFC#8).canCommit 3 :=
  ⟨by decide, by decide, ⟨by decide, by decide⟩⟩

theorem witness_JzJumpsExactlyOnZero :
    255 < 2 ^ Config.default.w ∧
    (let m : Mach Config.default := { late 0xFF#8 with zero := true };
      m.zero = true ∧ m.counter.toNat + 1 < 2 ^ Config.default.w) ∧
    (late 0xFD#8).zero = false ∧ (late 0xFD#8).canCommit 2 :=
  ⟨by decide, by decide, rfl, ⟨by decide, by decide⟩⟩

theorem witness_BadRegisterIndexFaultsBeforeAnyWrite :
    ¬ 8 < Config.default.cnCount ∧ ¬ (8 < Config.default.cnCount ∧ 7 < Config.default.cnCount) ∧
    ¬ (7 < Config.default.cnCount ∧ 255 < Config.default.cnCount) ∧
    (start.pipelineState ≠ .execute2 ∧ ¬ 8 < Config.default.cnCount) ∧
    (({ start with pipelineState := .execute2 } : Mach Config.default).pipelineState = .execute2 ∧
      ¬ 8 < Config.default.cnCount) := by decide

theorem witness_FullCounterFaultsEveryCommit :
    full.counter.toNat + 1 = 2 ^ Config.default.w ∧ full.commits (.inc 7) ∧ full.commits (.st 0 7) ∧
      (∀ x ∈ registersOf (.inc 7), x < Config.default.cnCount) ∧
      (∀ x ∈ registersOf (.st 0 7), x < Config.default.cnCount) ∧
      Mach.commits { full with pipelineState := .execute2 } (.ld 0 7) :=
  ⟨by decide, nofun, nofun, by decide, by decide, fun _ _ _ => rfl⟩

theorem witness_IpCarryFaultsEveryCommit :
    (late 0xFD#8).counter.toNat + 1 < 2 ^ Config.default.w ∧
      2 ^ Config.default.w ≤ (late 0xFD#8).ip.toNat + (Instr.cmp 0 7).length ∧ (late 0xFD#8).commits (.cmp 0 7) ∧
      ¬ (late 0xFD#8).jumps (.cmp 0 7) ∧ (∀ x ∈ registersOf (.cmp 0 7), x < Config.default.cnCount) ∧
      2 ^ Config.default.w ≤ (late 0xFD#8).ip.toNat + (Instr.st 0 7).length ∧ (late 0xFD#8).commits (.st 0 7) ∧
      ¬ (late 0xFD#8).jumps (.st 0 7) ∧ (∀ x ∈ registersOf (.st 0 7), x < Config.default.cnCount) ∧
      2 ^ Config.default.w ≤ (late 0xFE#8).ip.toNat + (Instr.jz 0).length ∧ ¬ (late 0xFE#8).jumps (.jz 0) := by
  refine ⟨by decide, by decide, nofun, ?_, by decide, by decide, nofun, ?_, by decide, by decide, ?_⟩
  · simp [Mach.jumps]
  · simp [Mach.jumps]
  · simp [Mach.jumps, late, start, Mach.initial]

theorem witness_PendingStoreOfAFaultNeverLands :
    0 < Config.default.cnCount ∧ 7 < Config.default.cnCount ∧ full.counter.toNat + 1 = 2 ^ Config.default.w ∧
      (∃ t, exec (.st 0 7) (on full) = .next (on t)) ∧
      2 ^ Config.default.w ≤ (late 0xFD#8).ip.toNat + 3 ∧ (late 0xFD#8).counter.toNat + 1 ≠ 2 ^ Config.default.w ∧
      ∃ t, exec (.st 0 7) (on (late 0xFD#8)) = .next (on t) :=
  ⟨by decide, by decide, by decide, exec_next full _, by decide, by decide, exec_next _ _⟩

theorem witness_RegisterInstructionsChangeOnlyTheirRegister :
    ∀ i ∈ [Instr.clr 7, .inc 7, .mov 7 0, .dec 7], ∃ t, exec i (on start) = .next (on t) := fun i _ => exec_next start i

theorem witness_AccumulatorInstructionsChangeOnlyTheAccumulator :
    ∀ i ∈ [Instr.sum 7 0, .clra, .inca, .adda 7, .sub 7 0, .suba 7, .deca], ∃ t, exec i (on start) = .next (on t) :=
  fun i _ => exec_next start i

theorem witness_ControlInstructionsChangeNoRegister :
    ∀ i ∈ [Instr.noop, .rst, .jmp 7, .cmp 7 0, .jz 7], ∃ t, exec i (on start) = .next (on t) :=
  fun i _ => exec_next start i

theorem witness_LoadAndStoreChangeOnlyTheirTargets :
    start.pipelineState ≠ .execute2 ∧ (∃ t, exec (.ld 7 0) (on start) = .next (on t)) ∧
    (∃ t, exec (.ld 7 0) (on { start with pipelineState := .execute2 }) = .next (on t)) ∧
    (∃ t, exec (.st 7 0) (on start) = .next (on t)) :=
  ⟨by decide, exec_next start _, exec_next _ _, exec_next start _⟩

theorem witness_StepKeepsTheParameters : ∃ t, step (on start) = .next t ∧ true = true :=
  nextWith_elim (p := fun _ => true) (by decide)

/-- INC 2 in its Read1 state, the read of its argument pending. -/
theorem witness_StepKeepsTheInvariant :
    let m : Mach Config.default := { start with
      pipelineState := .read1, commandCode := 0x03#8, en := true, addr := 1#8, data := 0x03#8
      ram := [(0, 0x03#8), (1, 0x02#8)] }
    m.Inv ∧ ∃ t, step (on m) = .next (on t) ∧ true = true := by
  refine ⟨⟨by decide, nofun, rfl, nofun, by decide, by decide, nofun, ?_, nofun, nofun, nofun, nofun⟩,
    step_answers (p := fun _ => true) (by decide)⟩
  intro _ _
  exact ⟨⟨_, rfl, by decide⟩, rfl, rfl, rfl, rfl, by decide⟩

end Sys2Proof.Tests
end

section
/-! The statements of 00_scope. -/

namespace Sys2Proof.Machine

/-- A step that answers a next state keeps the construction parameters (00_scope R8 to R11). -/
theorem step_keeps_cfg {s t : State} (h : step s = .next t) : t.cfg = s.cfg := by
  obtain ⟨c, m⟩ := s
  obtain ⟨-, hs⟩ | ⟨-, -, hs⟩ | ⟨_, u, -, -, -, hs⟩ := step_cases m <;> rw [hs] at h
  · cases h; rfl
  · cases h
  · cases h; rfl

/-- Settles O57, by the three cases of a step: halted, host error, or the pipeline state's answer. -/
theorem stepKeepsTheParameters : Obligations.StepKeepsTheParameters :=
  fun _ _ h => step_keeps_cfg h

end Sys2Proof.Machine
end

section
/-! CPU memory as an array of bits: where each slot stands, and that the slots and the unused bits are all of it
(10_state R20, R21, R35). -/

namespace Sys2Proof.Machine

variable {c : Config}

/-! ## The slots lie side by side inside CPU memory -/

theorem slots_mul_width_le (c : Config) : (serviceRegisters + c.cnCount) * c.w ≤ c.cpuMemBits := by
  have hw : 0 < c.w := Nat.lt_of_lt_of_le (by decide) c.wide
  have h8 : 8 ≤ c.cpuMemBits / c.w := (Nat.le_div_iff_mul_le hw).2 c.roomy
  have hs : serviceRegisters + c.cnCount = c.cpuMemBits / c.w := by
    simp only [Config.cnCount, serviceRegisters]
    omega
  rw [hs]
  exact Nat.div_mul_le_self _ _

/-- A slot ends where the next one begins, or earlier. -/
theorem slot_end_le {w j k : Nat} (h : j < k) : j * w + w ≤ k * w := by
  rw [← Nat.succ_mul]
  exact Nat.mul_le_mul_right w h

/-- A slot of a register ends inside CPU memory. -/
theorem slot_end_le_cpuMemBits {k : Nat} (hk : k < serviceRegisters + c.cnCount) : k * c.w + c.w ≤ c.cpuMemBits :=
  Nat.le_trans (slot_end_le hk) (slots_mul_width_le c)

/-! ## Bit fields -/

/-- A bit field of a bit field is a bit field. -/
theorem getBits_getBits {n w k o : Nat} (v : BitVec n) (offset : Nat) (h : o + k ≤ w) :
    getBits (getBits v offset w) o k = getBits v (offset + o) k := by
  apply BitVec.eq_of_getLsbD_eq
  intro i hi
  simp [hi, Nat.add_assoc]
  omega

/-- Reading back the bit field that was inserted (40_alu R106). -/
theorem getBits_setBits_same {n w : Nat} (v : BitVec n) {offset : Nat} (x : BitVec w) (h : offset + w ≤ n) :
    getBits (setBits v offset x) offset w = x := by
  apply BitVec.eq_of_getLsbD_eq
  intro i hi
  have hin : offset + i < n := by omega
  rw [getLsbD_getBits, getLsbD_setBits, if_pos (by omega)]
  simp [hi, hin]

/-- An insert leaves every bit field that is disjoint from it alone (40_alu R106). -/
theorem getBits_setBits_disjoint {n w k : Nat} (v : BitVec n) {offset o : Nat} (x : BitVec w)
    (hd : o + k ≤ offset ∨ offset + w ≤ o) (h : o + k ≤ n) : getBits (setBits v offset x) o k = getBits v o k := by
  apply BitVec.eq_of_getLsbD_eq
  intro i hi
  have hin : o + i < n := by omega
  have hout : ¬ (offset ≤ o + i ∧ o + i < offset + w) := by omega
  rw [getLsbD_getBits, getLsbD_setBits, if_neg hout, getLsbD_getBits]
  simp [hin]

/-! ## The bit array and the slots -/

/-- Slot k stands at its Reference (10_state R21). -/
theorem Mach.getBits_cpuImage_slot (m : Mach c) {k : Nat} (hk : k < serviceRegisters + c.cnCount) :
    getBits m.cpuImage (k * c.w) c.w = m.slot k := by
  apply BitVec.eq_of_getLsbD_eq
  intro i hi
  have hn : k * c.w + i < c.cpuMemBits := by
    have := slot_end_le_cpuMemBits hk
    omega
  have hd : (k * c.w + i) / c.w = k := by
    rw [Nat.mul_comm, Nat.mul_add_div (by omega), Nat.div_eq_of_lt hi, Nat.add_zero]
  have hr : (k * c.w + i) % c.w = i := by
    rw [Nat.mul_comm, Nat.mul_add_mod, Nat.mod_eq_of_lt hi]
  simp [Mach.cpuImage, hi, hn, hd, hr, hk]

/-- The unused bits stand after the last slot (10_state R21). -/
theorem Mach.getBits_cpuImage_unused (m : Mach c) :
    getBits m.cpuImage ((serviceRegisters + c.cnCount) * c.w) c.unusedBits = m.unused := by
  apply BitVec.eq_of_getLsbD_eq
  intro i hi
  have hle := slots_mul_width_le c
  have hw := c.wide
  have hn : (serviceRegisters + c.cnCount) * c.w + i < c.cpuMemBits := by
    simp only [Config.unusedBits] at hi
    omega
  have hd : ¬ ((serviceRegisters + c.cnCount) * c.w + i) / c.w < serviceRegisters + c.cnCount := by
    rw [Nat.div_lt_iff_lt_mul (by omega)]
    omega
  simp [Mach.cpuImage, hi, hn, hd]

/-- The slots and the unused bits are all of CPU memory (10_state R21). -/
theorem cpuMemory_ext {a b : BitVec c.cpuMemBits}
    (hs : ∀ k < serviceRegisters + c.cnCount, getBits a (k * c.w) c.w = getBits b (k * c.w) c.w)
    (hu : getBits a ((serviceRegisters + c.cnCount) * c.w) c.unusedBits =
      getBits b ((serviceRegisters + c.cnCount) * c.w) c.unusedBits) : a = b := by
  apply BitVec.eq_of_getLsbD_eq
  intro n hn
  have hw := c.wide
  by_cases hk : n / c.w < serviceRegisters + c.cnCount
  · have hbit := congrArg (·.getLsbD (n % c.w)) (hs _ hk)
    have hmod : n % c.w < c.w := Nat.mod_lt _ (by omega)
    simpa [hmod, Nat.div_add_mod'] using hbit
  · rw [Nat.div_lt_iff_lt_mul (by omega)] at hk
    obtain ⟨i, rfl⟩ : ∃ i, n = (serviceRegisters + c.cnCount) * c.w + i := ⟨_, (Nat.add_sub_of_le (by omega)).symm⟩
    have hi : i < c.unusedBits := by
      simp only [Config.unusedBits]
      omega
    have hbit := congrArg (·.getLsbD i) hu
    simpa [hi] using hbit

/-! ## The slots of the state that a bit array makes -/

/-- The PipelineState of a 3-bit value has that value for its code (10_state R23). -/
theorem PipelineState.code_ofCode (b : BitVec 3) : (PipelineState.ofCode b).code = b := by
  revert b
  decide

/-- The PipelineState of a state's code is the state (10_state R23). -/
theorem PipelineState.ofCode_code (p : PipelineState) : PipelineState.ofCode p.code = p := by
  cases p <;> rfl

section OfImage

variable (cpu : BitVec c.cpuMemBits) (ram : Ram c.w) (ctrl : BitVec 2) (addr data : Word c.w) (g : Option FatalCause)

theorem Mach.systemWord_ofImage : (Mach.ofImage cpu ram ctrl addr data g).systemWord = getBits cpu 0 c.w := by
  apply BitVec.eq_of_getLsbD_eq
  intro i hi
  simp only [Mach.systemWord, Mach.ofImage, PipelineState.code_ofCode, getLsbD_bitsOf, getLsbD_getBits, hi]
  by_cases h3 : i < 3
  · simp [h3]
  by_cases h4 : i = 3
  · simp [h4]
  · have hr : i - 4 < c.w - 4 := by omega
    have hs : 4 + (i - 4) = i := by omega
    simp [h3, h4, hr, hs]

theorem Mach.flagsWord_ofImage : (Mach.ofImage cpu ram ctrl addr data g).flagsWord = getBits cpu (4 * c.w) c.w := by
  apply BitVec.eq_of_getLsbD_eq
  intro i hi
  simp only [Mach.flagsWord, Mach.ofImage, getLsbD_bitsOf, getLsbD_getBits, hi]
  match i with
  | 0 | 1 | 2 | 3 => simp
  | i + 4 =>
    have hr : i < c.w - 4 := by omega
    simp [hr, ← Nat.add_assoc, Nat.add_right_comm _ 4]

/-- Each slot of the state that a bit array makes holds its bits of the array. -/
theorem Mach.slot_ofImage {k : Nat} (hk : k < serviceRegisters + c.cnCount) :
    (Mach.ofImage cpu ram ctrl addr data g).slot k = getBits cpu (k * c.w) c.w := by
  match k with
  | 0 => simpa [Mach.slot] using systemWord_ofImage cpu ram ctrl addr data g
  | 1 | 2 | 3 | 5 | 6 | 7 => rfl
  | 4 => exact flagsWord_ofImage cpu ram ctrl addr data g
  | i + 8 =>
    have hi : i < c.cnCount := by
      simp only [serviceRegisters] at hk
      omega
    simp [Mach.slot, Mach.ofImage, hi, Nat.add_comm]

/-- Every bit array is the CPU memory of the state it makes. -/
theorem Mach.cpuImage_ofImage : (Mach.ofImage cpu ram ctrl addr data g).cpuImage = cpu := by
  apply cpuMemory_ext
  · intro k hk
    rw [Mach.getBits_cpuImage_slot _ hk, Mach.slot_ofImage cpu ram ctrl addr data g hk]
  · rw [Mach.getBits_cpuImage_unused]
    rfl

/-- Every value of the control bus is that of the state it makes. -/
theorem Mach.ctrlBus_ofImage : (Mach.ofImage cpu ram ctrl addr data g).ctrlBus = ctrl := by
  apply BitVec.eq_of_getLsbD_eq
  intro i hi
  obtain rfl | rfl : i = 0 ∨ i = 1 := by omega
  · simp [Mach.ctrlBus, Mach.ofImage]
  · simp [Mach.ctrlBus, Mach.ofImage]

end OfImage

/-! ## The fields that the bit array of a state gives back -/

/-- A bit field inside slot k of CPU memory is that bit field of the slot's word. -/
theorem Mach.getBits_cpuImage_inSlot (m : Mach c) {k o n : Nat} (hk : k < serviceRegisters + c.cnCount)
    (ho : o + n ≤ c.w) : getBits m.cpuImage (k * c.w + o) n = getBits (m.slot k) o n := by
  rw [← getBits_getBits _ _ ho, Mach.getBits_cpuImage_slot m hk]

/-- A bit inside slot k of CPU memory is that bit of the slot's word. -/
theorem Mach.getLsbD_cpuImage_inSlot (m : Mach c) {k i : Nat} (hk : k < serviceRegisters + c.cnCount)
    (hi : i < c.w) : m.cpuImage.getLsbD (k * c.w + i) = (m.slot k).getLsbD i := by
  have hbit := congrArg (·.getLsbD i) (Mach.getBits_cpuImage_slot m hk)
  simpa [hi] using hbit

/-- The bit fields of System (10_state R22, R24, R36). -/
theorem Mach.systemWord_fields (m : Mach c) :
    getBits m.systemWord 0 3 = m.pipelineState.code ∧ m.systemWord.getLsbD 3 = m.argumentMode ∧
      getBits m.systemWord 4 (c.w - 4) = m.systemReserved := by
  have hw := c.wide
  have h3 : 3 < c.w := by omega
  refine ⟨BitVec.eq_of_getLsbD_eq fun i hi => ?_, ?_, BitVec.eq_of_getLsbD_eq fun i hi => ?_⟩
  · have hin : i < c.w := by omega
    simp [Mach.systemWord, hi, hin]
  · simp [Mach.systemWord, h3]
  · have hin : 4 + i < c.w := by omega
    have hne : 4 + i ≠ 3 := by omega
    have hlt : ¬ 4 + i < 3 := by omega
    simp [Mach.systemWord, hi, hin, hne, hlt]

/-- The bit fields of Flags (10_state R26 to R30, R36). -/
theorem Mach.flagsWord_fields (m : Mach c) :
    m.flagsWord.getLsbD 0 = m.terminated ∧ m.flagsWord.getLsbD 1 = m.overflow ∧ m.flagsWord.getLsbD 2 = m.fatal ∧
      m.flagsWord.getLsbD 3 = m.zero ∧ getBits m.flagsWord 4 (c.w - 4) = m.flagsReserved := by
  have hw := c.wide
  have hin (i : Nat) (h : i < 4) : i < c.w := Nat.lt_of_lt_of_le h hw
  refine ⟨?_, ?_, ?_, ?_, BitVec.eq_of_getLsbD_eq fun i hi => ?_⟩
  · simp [Mach.flagsWord, hin 0]
  · simp [Mach.flagsWord, hin 1]
  · simp [Mach.flagsWord, hin 2]
  · simp [Mach.flagsWord, hin 3]
  · have h4 : 4 + i < c.w := by omega
    have hne : 4 + i ≠ 0 ∧ 4 + i ≠ 1 ∧ 4 + i ≠ 2 ∧ 4 + i ≠ 3 := by omega
    simp [Mach.flagsWord, hi, h4, hne]

/-- The general registers stand in their slots (10_state R34). -/
theorem Mach.ofFn_getBits_cpuImage (m : Mach c) :
    (Vector.ofFn fun i : Fin c.cnCount => getBits m.cpuImage ((8 + i.val) * c.w) c.w) = m.cr := by
  apply Vector.ext
  intro i hi
  rw [Vector.getElem_ofFn, m.getBits_cpuImage_slot (by simpa [serviceRegisters] using hi), Nat.add_comm]
  simp [Mach.slot, hi]

/-- The two bits of the control bus (10_state R37). -/
theorem Mach.ctrlBus_bits (m : Mach c) : m.ctrlBus.getLsbD 0 = m.en ∧ m.ctrlBus.getLsbD 1 = m.wr := by
  simp [Mach.ctrlBus]

/-- The state that a state's storage arrays make is the state. -/
theorem Mach.ofImage_cpuImage (m : Mach c) :
    Mach.ofImage m.cpuImage m.ram m.ctrlBus m.addr m.data m.ghostCause = m := by
  have hw := c.wide
  have slotIs {k : Nat} (hk : k < 8) : k < serviceRegisters + c.cnCount :=
    Nat.lt_of_lt_of_le hk (Nat.le_add_right _ _)
  have word (k : Nat) (hk : k < 8) : getBits m.cpuImage (k * c.w) c.w = m.slot k :=
    m.getBits_cpuImage_slot (slotIs hk)
  have system (o n : Nat) (h : o + n ≤ c.w) : getBits m.cpuImage o n = getBits m.systemWord o n := by
    simpa [Mach.slot] using m.getBits_cpuImage_inSlot (k := 0) (slotIs (by decide)) h
  have flag (i : Nat) (h : i < c.w) : m.cpuImage.getLsbD (4 * c.w + i) = m.flagsWord.getLsbD i :=
    m.getLsbD_cpuImage_inSlot (slotIs (by decide)) h
  have mode : m.cpuImage.getLsbD 3 = m.systemWord.getLsbD 3 := by
    simpa [Mach.slot] using m.getLsbD_cpuImage_inSlot (k := 0) (i := 3) (slotIs (by decide)) (by omega)
  have reserved : getBits m.cpuImage (4 * c.w + 4) (c.w - 4) = getBits m.flagsWord 4 (c.w - 4) :=
    m.getBits_cpuImage_inSlot (slotIs (by decide)) (by omega)
  obtain ⟨hstate, hmode, hsystem⟩ := m.systemWord_fields
  obtain ⟨hterm, hover, hfatal, hzero, hflags⟩ := m.flagsWord_fields
  obtain ⟨hen, hwr⟩ := m.ctrlBus_bits
  have terminated : m.cpuImage.getLsbD (4 * c.w) = m.terminated := (flag 0 (by omega)).trans hterm
  simp only [Mach.ofImage, system 0 3 (by omega), system 4 (c.w - 4) (by omega), mode, terminated,
    flag 1 (by omega), flag 2 (by omega), flag 3 (by omega), reserved, word 1 (by decide), word 2 (by decide),
    word 3 (by decide), word 5 (by decide), word 6 (by decide), word 7 (by decide), m.ofFn_getBits_cpuImage,
    m.getBits_cpuImage_unused, hstate, hmode, hsystem, hover, hfatal, hzero, hflags, hen, hwr,
    PipelineState.ofCode_code]
  rfl

/-- Settles O13: each field's bits stand in its slot, and each slot of the state that an array makes holds the array's
bits. -/
theorem fieldsAndStorageArraysAreOneState : Obligations.FieldsAndStorageArraysAreOneState :=
  fun _ => ⟨Mach.ofImage_cpuImage, fun cpu ram ctrl addr data g =>
    ⟨Mach.cpuImage_ofImage cpu ram ctrl addr data g, Mach.ctrlBus_ofImage cpu ram ctrl addr data g⟩⟩

/-! ## A register write is the insert of its bit field -/

theorem RegRef.slotNumber_lt (r : RegRef c) : r.slotNumber < serviceRegisters + c.cnCount := by
  cases r with
  | cr i => simp [RegRef.slotNumber]
  | counter | ip | ar =>
    simp only [RegRef.slotNumber, serviceRegisters]
    omega

/-- A register write changes the word of the register's slot alone (10_state R35). -/
theorem Mach.slot_set (m : Mach c) (r : RegRef c) (v : Word c.w) (k : Nat) :
    (m.set r v).slot k = if k = r.slotNumber then v else m.slot k := by
  cases r with
  | counter | ip | ar =>
    match k with
    | 0 | 1 | 2 | 3 | 4 | 5 | 6 | 7 | _ + 8 => rfl
  | cr j =>
    match k with
    | 0 | 1 | 2 | 3 | 4 | 5 | 6 | 7 =>
      rw [if_neg (by simp only [RegRef.slotNumber, serviceRegisters]; omega)]
      rfl
    | i + 8 =>
      have hij : i + 8 = (RegRef.cr j).slotNumber ↔ j.val = i := by
        simp only [RegRef.slotNumber, serviceRegisters]
        omega
      by_cases hi : i < c.cnCount
      · simp [Mach.slot, hi, hij, Vector.getElem_set]
      · have hne : j.val ≠ i := by omega
        simp [Mach.slot, hi, hij, hne]

/-- A register write inserts the register's bit field into CPU memory, every other bit unchanged (10_state R35). -/
theorem Mach.cpuImage_set (m : Mach c) (r : RegRef c) (v : Word c.w) :
    (m.set r v).cpuImage = setBits m.cpuImage (r.slotNumber * c.w) v := by
  have hr := r.slotNumber_lt
  apply cpuMemory_ext
  · intro k hk
    rw [Mach.getBits_cpuImage_slot _ hk, Mach.slot_set]
    obtain h | rfl | h := Nat.lt_trichotomy k r.slotNumber
    · rw [if_neg (by omega), getBits_setBits_disjoint _ _ (.inl (slot_end_le h)) (slot_end_le_cpuMemBits hk),
        Mach.getBits_cpuImage_slot _ hk]
    · rw [if_pos rfl, getBits_setBits_same _ _ (slot_end_le_cpuMemBits hk)]
    · rw [if_neg (by omega), getBits_setBits_disjoint _ _ (.inr (slot_end_le h)) (slot_end_le_cpuMemBits hk),
        Mach.getBits_cpuImage_slot _ hk]
  · have hle := slots_mul_width_le c
    rw [getBits_setBits_disjoint _ _ (.inr (slot_end_le hr)) (by simp only [Config.unusedBits]; omega),
      Mach.getBits_cpuImage_unused, Mach.getBits_cpuImage_unused, Mach.set_unused]

/-- Settles O12: slots lie side by side, so the insert of one slot's bit field changes the word of that slot alone, as
the register write does. -/
theorem registerWriteIsTheInsertOfItsBitField : Obligations.RegisterWriteIsTheInsertOfItsBitField :=
  fun _ => ⟨fun _ _ hjk _ => .inl (slot_end_le hjk), fun _ hk => slot_end_le_cpuMemBits hk, Mach.cpuImage_set⟩

/-! ## The reset state -/

/-- A bit field of a bit array of zeros. -/
theorem getBits_zero (n offset w : Nat) : getBits (0 : BitVec n) offset w = 0 := by
  apply BitVec.eq_of_getLsbD_eq
  simp

theorem Mach.systemWord_initial (ram : Ram c.w) : (Mach.initial c ram).systemWord = 0 := by
  apply BitVec.eq_of_getLsbD_eq
  intro i hi
  simp [Mach.systemWord, Mach.initial, PipelineState.code]

theorem Mach.flagsWord_initial (ram : Ram c.w) : (Mach.initial c ram).flagsWord = 0 := by
  apply BitVec.eq_of_getLsbD_eq
  intro i hi
  simp [Mach.flagsWord, Mach.initial]

/-- Every word slot is 0 after construction (10_state R41). -/
theorem Mach.slot_initial (ram : Ram c.w) (k : Nat) : (Mach.initial c ram).slot k = 0 := by
  match k with
  | 0 => exact systemWord_initial ram
  | 1 | 2 | 3 | 5 | 6 | 7 => rfl
  | 4 => exact flagsWord_initial ram
  | i + 8 => simp [Mach.slot, Mach.initial]

/-- Every bit of CPU memory is 0 after construction (10_state R41). -/
theorem Mach.cpuImage_initial (ram : Ram c.w) : (Mach.initial c ram).cpuImage = 0 := by
  apply cpuMemory_ext
  · intro k hk
    rw [Mach.getBits_cpuImage_slot _ hk, Mach.slot_initial, getBits_zero]
  · rw [Mach.getBits_cpuImage_unused, getBits_zero]
    rfl

theorem Mach.ctrlBus_initial (ram : Ram c.w) : (Mach.initial c ram).ctrlBus = 0 := by
  apply BitVec.eq_of_getLsbD_eq
  simp [Mach.ctrlBus, Mach.initial]

/-- Settles O9, slot by slot. -/
theorem resetStateIsAllZero : Obligations.ResetStateIsAllZero :=
  ⟨rfl, Mach.cpuImage_initial [], rfl, Mach.ctrlBus_initial [], rfl, rfl, fun _ => rfl, rfl⟩

/-- A machine after construction has the invariant: it waits in Fetch with nothing pending (10_state R41). -/
theorem Mach.initial_inv {ram : Ram c.w} (hw : Ram.wf c.ramWords ram = true) : (Mach.initial c ram).Inv where
  ramCanonical := hw
  fatalHalts := nofun
  ghostRecordsFatal := rfl
  overflowOnlyOnFault := nofun
  legalState := ⟨nofun, nofun⟩
  reservedZero := ⟨rfl, rfl, rfl⟩
  inDecode := nofun
  inRead1 := nofun
  inRead2 := nofun
  inExecute1 := nofun
  inExecute2 := nofun
  inFetch := fun _ => nofun

/-- Settles O58: the empty image is canonical. -/
theorem resetStateHasTheInvariant : Obligations.ResetStateHasTheInvariant :=
  Mach.initial_inv rfl

end Sys2Proof.Machine
end

section
/-! What each operation, instruction, pipeline state and strobe keeps of RAM, AR, Zero and the halt flags, and the
statements that follow (10_state R27, R28, R30, R33, R34, R40). -/

namespace Sys2Proof

/-- The instruction that a row builds has the row's opcode (30_encoding R85). -/
theorem opcode_build {row : OpcodeRow} (h : row ∈ opcodeTable) (x y : Nat) : (row.build x y).opcode = row.opcode := by
  revert row
  simp [opcodeTable, Instr.opcode]

/-- A decoded instruction's opcode is the first word (30_encoding R82). -/
theorem decode_opcode {w : Nat} {v : Word w} {ws rest : List (Word w)} {i : Instr}
    (h : decode (v :: ws) = .ok (i, rest)) : i.opcode = v.toNat := by
  rw [decode_cons] at h
  split at h
  · cases h
  · next row hl =>
    obtain ⟨hrow, hop⟩ := lookup_some hl
    split at h <;> cases h <;> rw [opcode_build hrow, hop]

/-- RST is the one instruction of opcode 0x01 (30_encoding R85). -/
theorem opcode_eq_one_iff {i : Instr} : i.opcode = 0x01 ↔ i = .rst := by
  cases i <;> simp [Instr.opcode]

end Sys2Proof

namespace Sys2Proof.Machine

variable {c : Config}

/-! ## What a commit and a jump do to the halt flags -/

/-- A commit sets Fatal and Terminated together, or neither (40_alu R112). -/
theorem Mach.keepsHaltFlags_commit (m : Mach c) (n : Nat) : m.keepsHaltFlags (m.commit n) := by
  rw [Mach.commit_eq]
  split
  · exact .inr ⟨rfl, rfl⟩
  · split
    · exact .inr ⟨rfl, rfl⟩
    · exact .inl ⟨rfl, rfl⟩

/-- A jump sets Fatal and Terminated together, or neither (46_compare_branch R210). -/
theorem Mach.keepsHaltFlags_jumpTo (m : Mach c) (x : Word c.w) : m.keepsHaltFlags (m.jumpTo x) := by
  rw [Mach.jumpTo_eq]
  split
  · exact .inr ⟨rfl, rfl⟩
  · exact .inl ⟨rfl, rfl⟩

/-! ## What the CPU half keeps -/

/-- The opcodes of the instructions that write AR (10_state R33). -/
def arWriters : List Nat := [0x04, 0x06, 0x07, 0x08, 0x0B, 0x0C, 0x0E]

/-- How AR, Zero, Fatal and Terminated of `t` come from those of `m`, where `ran k` says that the handler of opcode k
has run in between. -/
structure Mach.KeepsFlags (m t : Mach c) (ran : Nat → Prop) : Prop where
  ar : t.ar = m.ar ∨ ∃ k ∈ arWriters, ran k
  zero : t.zero = m.zero ∨ ran 0x12
  halt : m.keepsHaltFlags t ∨ (ran 0x01 ∧ t.fatal = m.fatal ∧ t.terminated = true)

/-- What every operation of the CPU half keeps. -/
structure Mach.CpuKeeps (m t : Mach c) (ran : Nat → Prop) : Prop extends m.KeepsFlags t ran where
  ram : t.ram = m.ram

section Operations

variable {m t : Mach c} {ran : Nat → Prop}

/-- An update that writes neither RAM nor AR, Zero, Fatal and Terminated, which `rfl` sees. -/
theorem Mach.CpuKeeps.of_eq (har : t.ar = m.ar := by rfl) (hzero : t.zero = m.zero := by rfl)
    (hfatal : t.fatal = m.fatal := by rfl) (hterm : t.terminated = m.terminated := by rfl)
    (hram : t.ram = m.ram := by rfl) : m.CpuKeeps t ran :=
  ⟨⟨.inl har, .inl hzero, .inl (.inl ⟨hfatal, hterm⟩)⟩, hram⟩

/-- An update that writes AR, by one of the seven handlers that may (10_state R33). -/
theorem Mach.CpuKeeps.of_arWriter (k : Nat) (hran : ran k) (hk : k ∈ arWriters := by decide)
    (hzero : t.zero = m.zero := by rfl) (hfatal : t.fatal = m.fatal := by rfl)
    (hterm : t.terminated = m.terminated := by rfl) (hram : t.ram = m.ram := by rfl) : m.CpuKeeps t ran :=
  ⟨⟨.inr ⟨k, hk, hran⟩, .inl hzero, .inl (.inl ⟨hfatal, hterm⟩)⟩, hram⟩

theorem Mach.CpuKeeps.refl : m.CpuKeeps m ran := .of_eq

/-- What is kept up to `t` is kept past an operation that leaves AR, Zero and RAM and faults or leaves the halt
flags. -/
theorem Mach.CpuKeeps.andThen {u : Mach c} (h : m.CpuKeeps t ran) (har : u.ar = t.ar) (hzero : u.zero = t.zero)
    (hram : u.ram = t.ram) (hhalt : t.keepsHaltFlags u) : m.CpuKeeps u ran where
  ar := har ▸ h.ar
  zero := hzero ▸ h.zero
  ram := hram.trans h.ram
  halt := by
    obtain ⟨hf, ht⟩ | hfault := hhalt
    · simpa only [Mach.keepsHaltFlags, hf, ht] using h.halt
    · exact .inl (.inr hfault)

theorem Mach.CpuKeeps.raiseFatal (h : m.CpuKeeps t ran) (cause : FatalCause) : m.CpuKeeps (t.raiseFatal cause) ran :=
  h.andThen rfl rfl rfl (.inr ⟨rfl, rfl⟩)

theorem Mach.CpuKeeps.commit (n : Nat) (h : m.CpuKeeps t ran) : m.CpuKeeps (t.commit n) ran :=
  h.andThen (t.commit_ar n) (t.commit_zero n) (t.commit_ram n) (t.keepsHaltFlags_commit n)

theorem Mach.CpuKeeps.jumpTo (x : Word c.w) (h : m.CpuKeeps t ran) : m.CpuKeeps (t.jumpTo x) ran :=
  h.andThen (t.jumpTo_ar x) (t.jumpTo_zero x) (t.jumpTo_ram x) (t.keepsHaltFlags_jumpTo x)

theorem Mach.CpuKeeps.withIndex {i : Nat} {k : Fin c.cnCount → Mach c} (h : ∀ j, m.CpuKeeps (k j) ran) :
    m.CpuKeeps (m.withIndex i k) ran := by
  by_cases hi : i < c.cnCount
  · rw [Mach.withIndex_inside m hi]
    exact h _
  · rw [Mach.withIndex_beyond m hi]
    exact CpuKeeps.refl.raiseFatal _

theorem Mach.CpuKeeps.readCR {i : Nat} {k : Word c.w → Mach c} (h : ∀ a, m.CpuKeeps (k a) ran) :
    m.CpuKeeps (m.readCR i k) ran :=
  .withIndex fun _ => h _

theorem Mach.CpuKeeps.readCR2 {x y : Nat} {k : Word c.w → Word c.w → Mach c} (h : ∀ a b, m.CpuKeeps (k a b) ran) :
    m.CpuKeeps (m.readCR2 x y k) ran :=
  .readCR fun a => .readCR fun b => h a b

theorem Mach.CpuKeeps.writeCR {i : Nat} {v : Word c.w} {k : Mach c → Mach c}
    (h : ∀ j, m.CpuKeeps (k (m.set (.cr j) v)) ran) : m.CpuKeeps (m.writeCR i v k) ran :=
  .withIndex h

theorem Mach.CpuKeeps.argAddress {k : Nat} {next : Word c.w → Mach c} (h : m.CpuKeeps t ran)
    (hn : ∀ a, m.CpuKeeps (next a) ran) : m.CpuKeeps (t.argAddress k next) ran := by
  rw [Mach.argAddress_eq]
  split
  · exact h.raiseFatal _
  · exact hn _

end Operations

/-- What is kept but for the handlers of `ran` is kept but for those of `ran'`, where these allow each handler that
matters. -/
theorem Mach.CpuKeeps.mono {m t : Mach c} {ran ran' : Nat → Prop} (h : m.CpuKeeps t ran)
    (himp : ∀ k ∈ 0x01 :: 0x12 :: arWriters, ran k → ran' k) : m.CpuKeeps t ran' where
  ar := h.ar.imp_right fun ⟨k, hk, hr⟩ => ⟨k, hk, himp k (by simp [hk]) hr⟩
  zero := h.zero.imp_right (himp _ (by simp))
  halt := h.halt.imp_right fun ⟨hr, hs⟩ => ⟨himp _ (by simp) hr, hs⟩
  ram := h.ram

/-- Every instruction keeps RAM, and AR, Zero and the halt flags but for the handlers that write them. -/
theorem exec_keeps (m : Mach c) (i : Instr) :
    ∃ t : Mach c, exec i ⟨c, m⟩ = .next ⟨c, t⟩ ∧ m.CpuKeeps t (i.opcode = ·) := by
  cases i with
  | noop => exact ⟨_, rfl, .commit 1 .refl⟩
  | rst => exact ⟨_, rfl, .commit 1 ⟨⟨.inl rfl, .inl rfl, .inr ⟨rfl, rfl, rfl⟩⟩, rfl⟩⟩
  | clr x => exact ⟨_, rfl, .withIndex fun _ => .commit 2 .of_eq⟩
  | inc x => exact ⟨_, rfl, .withIndex fun _ => .commit 2 .of_eq⟩
  | dec x => exact ⟨_, rfl, .withIndex fun _ => .commit 2 .of_eq⟩
  | mov x y => exact ⟨_, rfl, .readCR2 fun _ _ => .withIndex fun _ => .commit 3 .of_eq⟩
  | clra => exact ⟨_, rfl, .commit 1 (.of_arWriter 0x06 rfl)⟩
  | inca => exact ⟨_, rfl, .commit 1 (.of_arWriter 0x07 rfl)⟩
  | deca => exact ⟨_, rfl, .commit 1 (.of_arWriter 0x0E rfl)⟩
  | adda x => exact ⟨_, rfl, .readCR fun _ => .commit 2 (.of_arWriter 0x08 rfl)⟩
  | suba x => exact ⟨_, rfl, .readCR fun _ => .commit 2 (.of_arWriter 0x0C rfl)⟩
  | sum x y => exact ⟨_, rfl, .readCR2 fun _ _ => .commit 3 (.of_arWriter 0x04 rfl)⟩
  | sub x y => exact ⟨_, rfl, .readCR2 fun _ _ => .commit 3 (.of_arWriter 0x0B rfl)⟩
  | st x y => exact ⟨_, rfl, .readCR2 fun _ _ => .commit 3 .of_eq⟩
  | cmp x y => exact ⟨_, rfl, .readCR2 fun _ _ => .commit 3 ⟨⟨.inl rfl, .inr rfl, .inl (.inl ⟨rfl, rfl⟩)⟩, rfl⟩⟩
  | jmp x => exact ⟨_, rfl, .jumpTo _ .refl⟩
  | jz x =>
    refine ⟨_, exec_jz m x, ?_⟩
    split
    · exact .jumpTo _ .refl
    · exact .commit 2 .refl
  | ld x y =>
    by_cases hp : m.pipelineState = .execute2
    · exact ⟨_, exec_ld_phase2 m x y hp,
        .writeCR (k := fun m => m.commit 3) fun _ => .commit 3 .of_eq⟩
    · exact ⟨_, exec_ld_phase1 m x y hp, .readCR fun _ => .of_eq⟩

/-- `exec_keeps`, of a next state that is given. -/
theorem keeps_of_exec {m t : Mach c} {i : Instr} (h : exec i ⟨c, m⟩ = .next ⟨c, t⟩) : m.CpuKeeps t (i.opcode = ·) := by
  obtain ⟨u, hu, hk⟩ := exec_keeps m i
  cases hu.symm.trans h
  exact hk

/-! ## The pipeline states -/

section PipelineStates

variable {m : Mach c}

theorem pipelineStep_fetch (h : m.pipelineState = .fetch) : pipelineStep ⟨c, m⟩ = .next ⟨c, m.fetchStep⟩ := by
  simp [pipelineStep, h, State.cpu]

theorem pipelineStep_decode (h : m.pipelineState = .decode) : pipelineStep ⟨c, m⟩ = .next ⟨c, m.decodeStep⟩ := by
  simp [pipelineStep, h, State.cpu]

theorem pipelineStep_read1 (h : m.pipelineState = .read1) : pipelineStep ⟨c, m⟩ = .next ⟨c, m.read1Step⟩ := by
  simp [pipelineStep, h, State.cpu]

theorem pipelineStep_read2 (h : m.pipelineState = .read2) : pipelineStep ⟨c, m⟩ = .next ⟨c, m.read2Step⟩ := by
  simp [pipelineStep, h, State.cpu]

theorem pipelineStep_invalid (h : m.pipelineState = .invalid6 ∨ m.pipelineState = .invalid7) :
    pipelineStep ⟨c, m⟩ = .next ⟨c, m.raiseFatal .badPipelineState⟩ := by
  obtain h | h := h <;> simp [pipelineStep, h, State.cpu]

/-- Execute1 runs the handler of the decoded instruction (41_pipeline R137). -/
theorem pipelineStep_execute1 (h : m.pipelineState = .execute1) {i : Instr} {rest : List (Word c.w)}
    (hd : decode m.scratch = .ok (i, rest)) : pipelineStep ⟨c, m⟩ = exec i ⟨c, m⟩ := by
  simp [pipelineStep, h, execute1Step, hd]

/-- Execute1 with no instruction in the scratch registers faults (41_pipeline R137). -/
theorem pipelineStep_execute1_unknown (h : m.pipelineState = .execute1) {e : DecodeError}
    (hd : decode m.scratch = .error e) : pipelineStep ⟨c, m⟩ = .next ⟨c, m.raiseFatal .unknownOpcode⟩ := by
  simp [pipelineStep, h, execute1Step, hd, State.cpu]

/-- Execute2 runs LD's second phase (41_pipeline R138). -/
theorem pipelineStep_execute2 (h : m.pipelineState = .execute2) (hop : m.commandCode.toNat = ldOpcode) :
    pipelineStep ⟨c, m⟩ = exec (.ld m.arg1.toNat m.arg2.toNat) ⟨c, m⟩ := by
  simp [pipelineStep, h, execute2Step, hop]

/-- Execute2 with another opcode faults (41_pipeline R138). -/
theorem pipelineStep_execute2_other (h : m.pipelineState = .execute2) (hop : m.commandCode.toNat ≠ ldOpcode) :
    pipelineStep ⟨c, m⟩ = .next ⟨c, m.raiseFatal .badPipelineState⟩ := by
  simp [pipelineStep, h, execute2Step, hop, State.cpu]

/-- Decode of an opcode that the table does not list (41_pipeline R134). -/
theorem Mach.decodeStep_unknown (h : lookup m.data.toNat = none) :
    m.decodeStep = Mach.raiseFatal { m with commandCode := m.data } .unknownOpcode := by
  simp only [Mach.decodeStep, h]

/-- Decode of a listed opcode (41_pipeline R134). -/
theorem Mach.decodeStep_known {row : OpcodeRow} (h : lookup m.data.toNat = some row) :
    m.decodeStep =
      if row.arity = 0 then { m with commandCode := m.data, pipelineState := .execute1 }
      else Mach.argAddress { m with commandCode := m.data, argumentMode := decide (row.arity = 2) } 1 fun a =>
        { m with
          commandCode := m.data, argumentMode := decide (row.arity = 2), en := true, wr := false, addr := a
          pipelineState := .read1 } := by
  simp only [Mach.decodeStep, h]
  rfl

theorem Mach.decodeStep_keeps (ran : Nat → Prop) : m.CpuKeeps m.decodeStep ran := by
  cases hl : lookup m.data.toNat with
  | none =>
    rw [Mach.decodeStep_unknown hl]
    refine Mach.CpuKeeps.raiseFatal ?_ _
    exact .of_eq
  | some row =>
    rw [Mach.decodeStep_known hl]
    split
    · exact .of_eq
    · exact .argAddress .of_eq fun _ => .of_eq

theorem Mach.read1Step_keeps (ran : Nat → Prop) : m.CpuKeeps m.read1Step ran := by
  unfold Mach.read1Step
  dsimp only
  split
  · exact .argAddress .of_eq fun _ => .of_eq
  · exact .of_eq

/-- Every pipeline state keeps RAM, and AR, Zero and the halt flags but in Execute1, for the handler of CommandCode. -/
theorem pipelineStep_keeps (m : Mach c) :
    ∃ t : Mach c, pipelineStep ⟨c, m⟩ = .next ⟨c, t⟩ ∧
      m.CpuKeeps t fun k => m.pipelineState = .execute1 ∧ m.commandCode.toNat = k := by
  cases hp : m.pipelineState with
  | fetch => exact ⟨_, pipelineStep_fetch hp, .of_eq⟩
  | decode => exact ⟨_, pipelineStep_decode hp, m.decodeStep_keeps _⟩
  | read1 => exact ⟨_, pipelineStep_read1 hp, m.read1Step_keeps _⟩
  | read2 => exact ⟨_, pipelineStep_read2 hp, .of_eq⟩
  | execute1 =>
    cases hd : decode m.scratch with
    | error e => exact ⟨_, pipelineStep_execute1_unknown hp hd, .raiseFatal .refl _⟩
    | ok r =>
      obtain ⟨t, ht, hk⟩ := exec_keeps m r.1
      exact ⟨t, (pipelineStep_execute1 hp hd).trans ht, hk.mono fun k _ hr => ⟨rfl, (decode_opcode hd).symm.trans hr⟩⟩
  | execute2 =>
    by_cases hop : m.commandCode.toNat = ldOpcode
    · obtain ⟨t, ht, hk⟩ := exec_keeps m (.ld m.arg1.toNat m.arg2.toNat)
      refine ⟨t, (pipelineStep_execute2 hp hop).trans ht, hk.mono ?_⟩
      rintro k hk rfl
      exact absurd (show 0x09 ∈ 0x01 :: 0x12 :: arWriters from hk) (by decide)
    · exact ⟨_, pipelineStep_execute2_other hp hop, .raiseFatal .refl _⟩
  | invalid6 => exact ⟨_, pipelineStep_invalid (.inl hp), .raiseFatal .refl _⟩
  | invalid7 => exact ⟨_, pipelineStep_invalid (.inr hp), .raiseFatal .refl _⟩

end PipelineStates

/-- `pipelineStep_keeps`, of a next state that is given. -/
theorem keeps_of_pipelineStep {m t : Mach c} (h : pipelineStep ⟨c, m⟩ = .next ⟨c, t⟩) :
    m.CpuKeeps t fun k => m.pipelineState = .execute1 ∧ m.commandCode.toNat = k := by
  obtain ⟨u, hu, hk⟩ := pipelineStep_keeps m
  cases hu.symm.trans h
  exact hk

/-! ## The strobes -/

section Strobes

variable {m t u : Mach c} {b : Bool}

theorem cpuTick_halted (h : m.terminated = true) : cpuTick ⟨c, m⟩ = .next (⟨c, m⟩, false) := if_pos h

theorem tickRam_halted (h : m.terminated = true) : tickRam ⟨c, m⟩ = .next (⟨c, m⟩, false) := if_pos h

theorem tick_halted (h : m.terminated = true) : tick ⟨c, m⟩ = .next (⟨c, m⟩, false) := if_pos h

/-- The RAM half whose request is serviced (20_memory R54). -/
theorem tickRam_serviced (h : m.terminated = false) (hs : m.serviceRequest = some u) :
    tickRam ⟨c, m⟩ = .next (⟨c, u⟩, true) := by
  simp [tickRam, h, ramTick, hs]

/-- The RAM half whose request has no word of RAM (20_memory R52). -/
theorem tickRam_hostError (h : m.terminated = false) (hs : m.serviceRequest = none) :
    tickRam ⟨c, m⟩ = .fault .ramAddressOutOfRange := by
  simp [tickRam, h, ramTick, hs]

/-- A paired tick is the CPU half on what the RAM half leaves (41_pipeline R142). -/
theorem tick_serviced (h : m.terminated = false) (hs : m.serviceRequest = some u) :
    tick ⟨c, m⟩ = cpuTick ⟨c, u⟩ := by
  simp [tick, h, ramTick, hs]

/-- A host error of the RAM half ends a paired tick (41_pipeline R142). -/
theorem tick_hostError (h : m.terminated = false) (hs : m.serviceRequest = none) :
    tick ⟨c, m⟩ = .fault .ramAddressOutOfRange := by
  simp [tick, h, ramTick, hs]

/-- A CPU tick does nothing, or is its pipeline state with EN cleared (41_pipeline R130, R131). -/
theorem cpuTick_cases (h : cpuTick ⟨c, m⟩ = .next (⟨c, t⟩, b)) :
    t = m ∨ pipelineStep ⟨c, { m with en := false }⟩ = .next ⟨c, t⟩ := by
  by_cases hm : m.terminated = false
  · obtain ⟨v, hv, hc⟩ := cpuTick_running m hm
    cases hc.symm.trans h
    exact .inr hv
  · cases (cpuTick_halted (by simpa using hm)).symm.trans h
    exact .inl rfl

/-- Everything a strobe can do: with `u` what the RAM half leaves, or the machine itself where that half is not run, the
strobe stops there or runs the CPU half on it (41_pipeline R142, R144, R145). -/
theorem strobe_cases {strobe : State → StrobeOutcome} (hs : strobe ∈ [tick, tickRam, tickCpu])
    (h : strobe ⟨c, m⟩ = .next (⟨c, t⟩, b)) :
    ∃ u : Mach c, (∃ ram data, u = { m with ram := ram, data := data }) ∧
      (t = u ∨ pipelineStep ⟨c, { u with en := false }⟩ = .next ⟨c, t⟩) := by
  simp only [List.mem_cons, List.not_mem_nil, or_false] at hs
  by_cases hm : m.terminated = false
  · obtain rfl | rfl | rfl := hs
    · cases hr : m.serviceRequest with
      | none => cases (tick_hostError hm hr).symm.trans h
      | some u => exact ⟨u, ⟨_, _, Mach.serviceRequest_some hr⟩, cpuTick_cases ((tick_serviced hm hr).symm.trans h)⟩
    · cases hr : m.serviceRequest with
      | none => cases (tickRam_hostError hm hr).symm.trans h
      | some u =>
        cases (tickRam_serviced hm hr).symm.trans h
        exact ⟨_, ⟨_, _, Mach.serviceRequest_some hr⟩, .inl rfl⟩
    · exact ⟨m, ⟨_, _, rfl⟩, cpuTick_cases h⟩
  · have ht : m.terminated = true := by simpa using hm
    refine ⟨m, ⟨_, _, rfl⟩, .inl ?_⟩
    obtain rfl | rfl | rfl := hs
    · cases (tick_halted ht).symm.trans h
      rfl
    · cases (tickRam_halted ht).symm.trans h
      rfl
    · cases (cpuTick_halted ht).symm.trans h
      rfl

/-- Every strobe keeps AR, Zero and the halt flags but in Execute1, for the handler of CommandCode. -/
theorem strobe_keeps {strobe : State → StrobeOutcome} (hs : strobe ∈ [tick, tickRam, tickCpu])
    (h : strobe ⟨c, m⟩ = .next (⟨c, t⟩, b)) :
    m.KeepsFlags t fun k => m.pipelineState = .execute1 ∧ m.commandCode.toNat = k := by
  obtain ⟨_, ⟨ram, data, rfl⟩, rfl | hp⟩ := strobe_cases hs h
  · exact ⟨.inl rfl, .inl rfl, .inl (.inl ⟨rfl, rfl⟩)⟩
  · obtain ⟨⟨har, hzero, hhalt⟩, -⟩ := keeps_of_pipelineStep hp
    exact ⟨har, hzero, hhalt⟩

end Strobes

/-! ## The halt flags -/

section KeepsFlags

variable {m t : Mach c} {ran : Nat → Prop} (h : m.KeepsFlags t ran)

include h

/-- Terminated is written to 0 by nothing (10_state R27). -/
theorem Mach.KeepsFlags.terminated_sticky (hm : m.terminated = true) : t.terminated = true := by
  obtain (⟨-, ht⟩ | ⟨-, ht⟩) | ⟨-, -, ht⟩ := h.halt
  · exact ht.trans hm
  · exact ht
  · exact ht

/-- Terminated is set by a fault or by RST (10_state R27). -/
theorem Mach.KeepsFlags.terminated_set (ht : t.terminated = true) :
    m.terminated = true ∨ t.fatal = true ∨ ran 0x01 := by
  obtain (⟨-, hkept⟩ | ⟨hf, -⟩) | ⟨hr, -, -⟩ := h.halt
  · exact .inl (hkept.symm.trans ht)
  · exact .inr (.inl hf)
  · exact .inr (.inr hr)

/-- Fatal is written to 0 by nothing (10_state R28). -/
theorem Mach.KeepsFlags.fatal_sticky (hm : m.fatal = true) : t.fatal = true := by
  obtain (⟨hf, -⟩ | ⟨hf, -⟩) | ⟨-, hf, -⟩ := h.halt
  · exact hf.trans hm
  · exact hf
  · exact hf.trans hm

/-- Fatal is set together with Terminated (10_state R28). -/
theorem Mach.KeepsFlags.fatal_set (hm : m.fatal = false) (hf : t.fatal = true) : t.terminated = true := by
  obtain (⟨hkept, -⟩ | ⟨-, ht⟩) | ⟨-, -, ht⟩ := h.halt
  · rw [hkept, hm] at hf
    cases hf
  · exact ht
  · exact ht

end KeepsFlags

/-! ## The statements -/

/-- Settles O20, by what instructions and strobes do to the halt flags. -/
theorem terminatedIsStickyAndStopsEveryTick : Obligations.TerminatedIsStickyAndStopsEveryTick := by
  refine ⟨?_, fun _ _ _ => rfl, ?_, ?_, ?_, rfl⟩
  · intro c m t h
    cases (exec_rst m).symm.trans h
    obtain ⟨-, ht⟩ | ⟨-, ht⟩ := m.setTerminated.keepsHaltFlags_commit 1 <;> exact ht
  · intro c m t i h
    have hk := (keeps_of_exec h).toKeepsFlags
    refine ⟨hk.terminated_sticky, fun hi ht => ?_⟩
    obtain hm | hf | hr := hk.terminated_set ht
    · exact .inl hm
    · exact .inr hf
    · exact absurd (opcode_eq_one_iff.1 hr) hi
  · intro c m t b strobe hs h
    have hk := strobe_keeps hs h
    refine ⟨hk.terminated_sticky, fun hm ht => ?_⟩
    obtain hm' | hset := hk.terminated_set ht
    · rw [hm] at hm'
      cases hm'
    · exact hset
  · rintro ⟨c, m⟩ hm strobe hs
    simp only [List.mem_cons, List.not_mem_nil, or_false] at hs
    obtain rfl | rfl := hs
    · exact tick_halted hm
    · exact cpuTick_halted hm

/-- Settles O49: the index checks come before any write. -/
theorem badRegisterIndexFaultsBeforeAnyWrite : Obligations.BadRegisterIndexFaultsBeforeAnyWrite := by
  intro c m x y
  refine ⟨fun hx i hi => exec_beyond m hx (by simpa using hi),
    fun hxy i hi => exec_beyond2 m hxy (by simpa using hi), ?_⟩
  rintro (⟨hp, hx⟩ | ⟨hp, hy⟩)
  · rw [exec_ld_phase1 m x y hp, Mach.ldPhase1, m.readCR_beyond hx]
    rfl
  · rw [exec_ld_phase2 m x y hp, Mach.ldPhase2, m.writeCR_beyond hy]
    rfl

/-- What the RAM half does to a word of RAM (20_memory R54). -/
theorem Mach.read_serviceRequest {m u : Mach c} (hs : m.serviceRequest = some u) (hw : Ram.wf c.ramWords m.ram = true)
    (a : Nat) :
    Ram.read u.ram a =
      if m.en = true ∧ m.wr = true ∧ a = m.addr.toNat then m.data else Ram.read m.ram a := by
  rw [Mach.serviceRequest_eq] at hs
  split at hs
  · next hen =>
    cases hs
    simp [hen]
  · next hen =>
    split at hs
    · cases hs
    · split at hs <;> cases hs
      · next hwr =>
        rw [Ram.read_write_from hw]
        simp [hen, hwr]
      · next hwr => simp [hwr]

/-- Settles O18: the CPU half keeps RAM, and the RAM half writes the one word of a pending write. -/
theorem onlyAServicedWriteChangesRam : Obligations.OnlyAServicedWriteChangesRam := by
  intro c m t
  refine ⟨fun b h => ?_, fun hw h a => ?_⟩
  · obtain rfl | hp := cpuTick_cases h
    · rfl
    · exact (keeps_of_pipelineStep hp).ram
  · obtain ⟨hm, hs⟩ | ⟨-, -, hs⟩ | ⟨u, v, hm, hr, hp, hs⟩ := step_cases m <;> cases hs.symm.trans h
    · simp [hm]
    · rw [(keeps_of_pipelineStep hp).ram]
      simpa [hm] using Mach.read_serviceRequest hr hw a

/-- `t` has every general register, the scratch registers, reserved and unused bits and the buses of `m`. -/
def Mach.KeepsStorage (m t : Mach c) : Prop := t.cr = m.cr ∧ m.keepsScratch t ∧ m.keepsBuses t

theorem Mach.keepsStorage_commit (m : Mach c) (n : Nat) : m.KeepsStorage (m.commit n) := by
  simp [Mach.KeepsStorage, Mach.keepsScratch, Mach.keepsBuses]

theorem Mach.keepsStorage_jumpTo (m : Mach c) (x : Word c.w) : m.KeepsStorage (m.jumpTo x) := by
  simp [Mach.KeepsStorage, Mach.keepsScratch, Mach.keepsBuses]

theorem Mach.keepsStorage_raiseFatal (m : Mach c) (cause : FatalCause) : m.KeepsStorage (m.raiseFatal cause) := by
  simp [Mach.KeepsStorage, Mach.keepsScratch, Mach.keepsBuses]

/-- The control and branch instructions write no general register, scratch register or bus (42_control,
46_compare_branch). -/
theorem exec_control_keepsStorage (m : Mach c) {x y : Nat} {i : Instr}
    (hi : i ∈ [Instr.noop, .rst, .jmp x, .cmp x y, .jz x]) :
    ∃ t : Mach c, exec i ⟨c, m⟩ = .next ⟨c, t⟩ ∧ m.KeepsStorage t := by
  simp only [List.mem_cons, List.not_mem_nil, or_false] at hi
  obtain rfl | rfl | rfl | rfl | rfl := hi
  · exact ⟨_, exec_noop m, m.keepsStorage_commit 1⟩
  · exact ⟨_, exec_rst m, m.setTerminated.keepsStorage_commit 1⟩
  · exact ⟨_, exec_jmp m x, m.keepsStorage_jumpTo _⟩
  · by_cases hxy : x < c.cnCount ∧ y < c.cnCount
    · obtain ⟨hx, hy⟩ := hxy
      exact ⟨_, exec_cmp m hx hy, (m.setZero m.cr[x] m.cr[y]).keepsStorage_commit 3⟩
    · exact ⟨_, exec_beyond2 m hxy (by simp), m.keepsStorage_raiseFatal _⟩
  · refine ⟨_, exec_jz m x, ?_⟩
    split
    · exact m.keepsStorage_jumpTo _
    · exact m.keepsStorage_commit 2

/-- Settles O55: the flags by what every instruction keeps, the rest by the five instructions' own storage frame. -/
theorem controlInstructionsChangeNoRegister : Obligations.ControlInstructionsChangeNoRegister := by
  intro c m t x y i hi h
  obtain ⟨u, hu, hcr, hscratch, hbuses⟩ := exec_control_keepsStorage m hi
  cases hu.symm.trans h
  obtain ⟨⟨har, hzero, hhalt⟩, hram⟩ := keeps_of_exec h
  have hopcodes : ∀ i ∈ [Instr.noop, .rst, .jmp x, .cmp x y, .jz x],
      i.opcode ∉ arWriters ∧ (i ≠ .cmp x y → i.opcode ≠ 0x12) := by
    simp [Instr.opcode, arWriters]
  obtain ⟨hnoAr, hnoCmp⟩ := hopcodes i hi
  refine ⟨fun j hj _ => by rw [hcr], ?_, fun hcmp => ?_, hscratch, hbuses, fun a => by rw [hram], fun hrst => ?_, ?_⟩
  · exact har.resolve_right fun ⟨k, hk, hop⟩ => hnoAr (hop ▸ hk)
  · exact hzero.resolve_right (hnoCmp hcmp)
  · exact hhalt.resolve_right fun hr => hrst (opcode_eq_one_iff.1 hr.1)
  · rintro rfl
    obtain (⟨hf, -⟩ | hfault) | ⟨-, hf, -⟩ := hhalt
    · exact .inl hf
    · exact .inr hfault
    · exact .inl hf

end Sys2Proof.Machine
end

section
/-! Which rule reads which field: machines that differ in one field alone, and what the CPU half, the RAM half and a
step make of them (10_state R28, R29, R30, R33, R43). -/

namespace Sys2Proof.Machine

variable {c : Config}

/-! ## Overflow, which a commit overwrites -/

/-- A commit does not read Overflow (10_state R29). -/
theorem Mach.commit_setOverflow (m : Mach c) (b : Bool) (n : Nat) : (m.setOverflow b).commit n = m.commit n := by
  rw [Mach.commit_eq, Mach.commit_eq]
  rfl

/-- The Overflow of an addition does not survive the commit of its instruction (10_state R29). -/
theorem Mach.commit_addToReg (m : Mach c) (r : RegRef c) (v : Word c.w) (n : Nat) :
    (m.addToReg r v).1.commit n = (m.set r (addW (m.get r) v).1).commit n :=
  Mach.commit_setOverflow _ _ n

/-- The Overflow of a subtraction does not survive the commit of its instruction (10_state R29). -/
theorem Mach.commit_subFromReg (m : Mach c) (r : RegRef c) (v : Word c.w) (n : Nat) :
    (m.subFromReg r v).1.commit n = (m.set r (subW (m.get r) v).1).commit n :=
  Mach.commit_setOverflow _ _ n

/-- Overflow after a commit says whether one of its increments carried (10_state R29, 40_alu R113). -/
theorem Mach.commit_overflow (m : Mach c) (n : Nat) :
    (m.commit n).overflow = ((addW m.counter (oneWord c.w)).2 || (addW m.ip (fromValue c.w n)).2) := by
  rw [Mach.commit_eq]
  split
  · next h => simp [h]
  · next h =>
    split
    · next h' => simp [h']
    · next h' => simp [h, h']

/-! ## Machines that differ in one field -/

/-- The fields that the statements say are read by few rules or by none. -/
inductive HiddenField where
  | fatal
  | overflow
  | zero
  | ar
  | ghostCause

/-- `m` with the hidden field of `x`. -/
def Mach.withField (m x : Mach c) : HiddenField → Mach c
  | .fatal => { m with fatal := x.fatal }
  | .overflow => { m with overflow := x.overflow }
  | .zero => { m with zero := x.zero }
  | .ar => { m with ar := x.ar }
  | .ghostCause => { m with ghostCause := x.ghostCause }

section WithField

variable (m x : Mach c) (h : HiddenField)

@[simp] theorem Mach.withField_pipelineState : (m.withField x h).pipelineState = m.pipelineState := by cases h <;> rfl
@[simp] theorem Mach.withField_argumentMode : (m.withField x h).argumentMode = m.argumentMode := by cases h <;> rfl
@[simp] theorem Mach.withField_commandCode : (m.withField x h).commandCode = m.commandCode := by cases h <;> rfl
@[simp] theorem Mach.withField_arg1 : (m.withField x h).arg1 = m.arg1 := by cases h <;> rfl
@[simp] theorem Mach.withField_arg2 : (m.withField x h).arg2 = m.arg2 := by cases h <;> rfl
@[simp] theorem Mach.withField_scratch : (m.withField x h).scratch = m.scratch := by cases h <;> rfl
@[simp] theorem Mach.withField_terminated : (m.withField x h).terminated = m.terminated := by cases h <;> rfl
@[simp] theorem Mach.withField_counter : (m.withField x h).counter = m.counter := by cases h <;> rfl
@[simp] theorem Mach.withField_ip : (m.withField x h).ip = m.ip := by cases h <;> rfl
@[simp] theorem Mach.withField_cr : (m.withField x h).cr = m.cr := by cases h <;> rfl
@[simp] theorem Mach.withField_ram : (m.withField x h).ram = m.ram := by cases h <;> rfl
@[simp] theorem Mach.withField_en : (m.withField x h).en = m.en := by cases h <;> rfl
@[simp] theorem Mach.withField_wr : (m.withField x h).wr = m.wr := by cases h <;> rfl
@[simp] theorem Mach.withField_addr : (m.withField x h).addr = m.addr := by cases h <;> rfl
@[simp] theorem Mach.withField_data : (m.withField x h).data = m.data := by cases h <;> rfl

end WithField

/-! ## Operations that carry a difference in a hidden field no further -/

/-- Machines that differ in the field `h` alone differ in it alone after `f`. -/
def Unaware (h : HiddenField) (f : Mach c → Mach c) : Prop :=
  ∀ m x, ∃ y, f (m.withField x h) = (f m).withField y h

section Unaware

variable {h : HiddenField}

/-- The difference after `f` is that of the hidden field after `f`. -/
theorem Unaware.of_update {f : Mach c → Mach c}
    (hf : ∀ m x, f (m.withField x h) = (f m).withField (f (m.withField x h)) h) : Unaware h f :=
  fun m x => ⟨_, hf m x⟩

theorem Unaware.andThen {f g : Mach c → Mach c} (hf : Unaware h f) (hg : Unaware h g) : Unaware h fun m => g (f m) := by
  intro m x
  obtain ⟨y, hy⟩ := hf m x
  simpa only [hy] using hg (f m) y

/-- A choice by a condition that does not read the hidden field. -/
theorem Unaware.ite {p : Mach c → Prop} [DecidablePred p] {f g : Mach c → Mach c}
    (hp : ∀ m x, p (m.withField x h) ↔ p m) (hf : Unaware h f) (hg : Unaware h g) :
    Unaware h fun m => if p m then f m else g m := by
  intro m x
  simp only [hp]
  split
  · exact hf m x
  · exact hg m x

theorem unaware_raiseFatal (cause : FatalCause) : Unaware h fun m : Mach c => m.raiseFatal cause :=
  .of_update fun _ _ => by cases h <;> rfl

theorem unaware_commit (n : Nat) : Unaware h fun m : Mach c => m.commit n := by
  refine .of_update fun m x => ?_
  simp only [Mach.commit_eq, Mach.withField_counter, Mach.withField_ip]
  split
  · cases h <;> rfl
  · split
    · cases h <;> rfl
    · cases h <;> rfl

theorem unaware_jumpTo (a : Word c.w) : Unaware h fun m : Mach c => m.jumpTo a := by
  refine .of_update fun m x => ?_
  simp only [Mach.jumpTo_eq, Mach.withField_counter]
  split
  · cases h <;> rfl
  · cases h <;> rfl

/-- An operation that checks a register index. -/
theorem Unaware.withIndex {i : Nat} {k : Fin c.cnCount → Mach c → Mach c} (hk : ∀ j, Unaware h (k j)) :
    Unaware h fun m => m.withIndex i fun j => k j m := by
  by_cases hi : i < c.cnCount
  · simpa only [Mach.withIndex_inside _ hi] using hk ⟨i, hi⟩
  · simpa only [Mach.withIndex_beyond _ hi] using unaware_raiseFatal .registerIndex

theorem Unaware.readCR {i : Nat} {k : Word c.w → Mach c → Mach c} (hk : ∀ a, Unaware h (k a)) :
    Unaware h fun m => m.readCR i fun a => k a m := by
  refine .withIndex (k := fun j m => k (m.get (.cr j)) m) fun j m x => ?_
  simpa only [Mach.get_cr, Mach.withField_cr] using hk m.cr[j] m x

theorem Unaware.readCR2 {i j : Nat} {k : Word c.w → Word c.w → Mach c → Mach c} (hk : ∀ a b, Unaware h (k a b)) :
    Unaware h fun m => m.readCR2 i j fun a b => k a b m :=
  .readCR fun a => .readCR fun b => hk a b

/-- `ArgAddress(k)` reads IP alone (41_pipeline R141). -/
theorem Unaware.argAddress {n : Nat} {k : Word c.w → Mach c → Mach c} (hk : ∀ a, Unaware h (k a)) :
    Unaware h fun m => m.argAddress n fun a => k a m := by
  intro m x
  simp only [Mach.argAddress_eq, Mach.withField_ip]
  split
  · exact unaware_raiseFatal _ m x
  · exact hk _ m x

theorem unaware_setTerminated : Unaware h fun m : Mach c => m.setTerminated :=
  .of_update fun _ _ => by cases h <;> rfl

theorem unaware_setZero (a b : Word c.w) : Unaware h fun m : Mach c => m.setZero a b :=
  .of_update fun _ _ => by cases h <;> rfl

theorem unaware_requestWrite (a v : Word c.w) : Unaware h fun m : Mach c => m.requestWrite a v :=
  .of_update fun _ _ => by cases h <;> rfl

/-- A read request with the pipeline state that waits for it. -/
theorem unaware_requestRead (a : Word c.w) (p : PipelineState) :
    Unaware h fun m : Mach c => { m.requestRead a with pipelineState := p } :=
  .of_update fun _ _ => by cases h <;> rfl

/-- AR computed from AR alone: it reaches only itself (10_state R33). -/
theorem unaware_setAr (g : Word c.w → Word c.w) : Unaware h fun m : Mach c => m.set .ar (g m.ar) :=
  .of_update fun _ _ => by cases h <;> rfl

/-- A general register computed from itself alone. -/
theorem unaware_setCr (j : Fin c.cnCount) (g : Word c.w → Word c.w) :
    Unaware h fun m : Mach c => m.set (.cr j) (g m.cr[j]) :=
  .of_update fun _ _ => by cases h <;> rfl

/-- DATA taken into a general register (45_load_store R201). -/
theorem unaware_setCr_data (j : Fin c.cnCount) : Unaware h fun m : Mach c => m.set (.cr j) m.data :=
  .of_update fun _ _ => by cases h <;> rfl

theorem unaware_addToAr_commit (v : Word c.w) (n : Nat) :
    Unaware h fun m : Mach c => (m.addToReg .ar v).1.commit n := by
  simpa only [Mach.commit_addToReg, Mach.get_ar] using (unaware_setAr fun a => (addW a v).1).andThen (unaware_commit n)

theorem unaware_subFromAr_commit (v : Word c.w) (n : Nat) :
    Unaware h fun m : Mach c => (m.subFromReg .ar v).1.commit n := by
  simpa only [Mach.commit_subFromReg, Mach.get_ar]
    using (unaware_setAr fun a => (subW a v).1).andThen (unaware_commit n)

theorem unaware_addToCr_commit (j : Fin c.cnCount) (v : Word c.w) (n : Nat) :
    Unaware h fun m : Mach c => (m.addToReg (.cr j) v).1.commit n := by
  simpa only [Mach.commit_addToReg, Mach.get_cr]
    using (unaware_setCr j fun a => (addW a v).1).andThen (unaware_commit n)

theorem unaware_subFromCr_commit (j : Fin c.cnCount) (v : Word c.w) (n : Nat) :
    Unaware h fun m : Mach c => (m.subFromReg (.cr j) v).1.commit n := by
  simpa only [Mach.commit_subFromReg, Mach.get_cr]
    using (unaware_setCr j fun a => (subW a v).1).andThen (unaware_commit n)

end Unaware

/-! ## The instructions -/

/-- No instruction carries a difference in a hidden field further, but JZ one in Zero. -/
theorem exec_unaware (h : HiddenField) (i : Instr) (hz : h = .zero → ∀ x, i ≠ .jz x) :
    ∃ f : Mach c → Mach c, (∀ m, exec i ⟨c, m⟩ = .next ⟨c, f m⟩) ∧ Unaware h f := by
  cases i with
  | noop => exact ⟨fun m => m.commit 1, fun _ => rfl, unaware_commit 1⟩
  | rst => exact ⟨fun m => m.setTerminated.commit 1, fun _ => rfl, unaware_setTerminated.andThen (unaware_commit 1)⟩
  | clr x =>
    exact ⟨fun m => m.withIndex x fun j => (m.set (.cr j) 0).commit 2, fun _ => rfl,
      .withIndex fun j => (unaware_setCr j fun _ => 0).andThen (unaware_commit 2)⟩
  | inc x =>
    exact ⟨fun m => m.withIndex x fun j => (m.addToReg (.cr j) (oneWord c.w)).1.commit 2, fun _ => rfl,
      .withIndex fun j => unaware_addToCr_commit j (oneWord c.w) 2⟩
  | dec x =>
    exact ⟨fun m => m.withIndex x fun j => (m.subFromReg (.cr j) (oneWord c.w)).1.commit 2, fun _ => rfl,
      .withIndex fun j => unaware_subFromCr_commit j (oneWord c.w) 2⟩
  | mov x y =>
    exact ⟨fun m => m.readCR2 x y fun _ v => m.withIndex x fun j => (m.set (.cr j) v).commit 3, fun _ => rfl,
      .readCR2 fun _ v => .withIndex fun j => (unaware_setCr j fun _ => v).andThen (unaware_commit 3)⟩
  | clra => exact ⟨fun m => (m.set .ar 0).commit 1, fun _ => rfl, (unaware_setAr fun _ => 0).andThen (unaware_commit 1)⟩
  | inca => exact ⟨fun m => (m.addToReg .ar (oneWord c.w)).1.commit 1, fun _ => rfl, unaware_addToAr_commit _ 1⟩
  | deca => exact ⟨fun m => (m.subFromReg .ar (oneWord c.w)).1.commit 1, fun _ => rfl, unaware_subFromAr_commit _ 1⟩
  | adda x =>
    exact ⟨fun m => m.readCR x fun b => (m.addToReg .ar b).1.commit 2, fun _ => rfl,
      .readCR fun b => unaware_addToAr_commit b 2⟩
  | suba x =>
    exact ⟨fun m => m.readCR x fun b => (m.subFromReg .ar b).1.commit 2, fun _ => rfl,
      .readCR fun b => unaware_subFromAr_commit b 2⟩
  | sum x y =>
    exact ⟨fun m => m.readCR2 x y fun a b => ((m.set .ar a).addToReg .ar b).1.commit 3, fun _ => rfl,
      .readCR2 fun a b => (unaware_setAr fun _ => a).andThen (unaware_addToAr_commit b 3)⟩
  | sub x y =>
    exact ⟨fun m => m.readCR2 x y fun a b => ((m.set .ar a).subFromReg .ar b).1.commit 3, fun _ => rfl,
      .readCR2 fun a b => (unaware_setAr fun _ => a).andThen (unaware_subFromAr_commit b 3)⟩
  | st x y =>
    exact ⟨fun m => m.readCR2 x y fun v a => (m.requestWrite a v).commit 3, fun _ => rfl,
      .readCR2 fun v a => (unaware_requestWrite a v).andThen (unaware_commit 3)⟩
  | cmp x y =>
    exact ⟨fun m => m.readCR2 x y fun a b => (m.setZero a b).commit 3, fun _ => rfl,
      .readCR2 fun a b => (unaware_setZero a b).andThen (unaware_commit 3)⟩
  | jmp x => exact ⟨fun m => m.jumpTo (fromValue c.w x), fun _ => rfl, unaware_jumpTo _⟩
  | jz x =>
    refine ⟨fun m => if m.zero then m.jumpTo (fromValue c.w x) else m.commit 2, fun _ => rfl,
      .ite (fun m y => ?_) (unaware_jumpTo _) (unaware_commit 2)⟩
    cases h
    case zero => exact absurd rfl (hz rfl x)
    all_goals rfl
  | ld x y =>
    refine ⟨fun m => if m.pipelineState = .execute2 then m.ldPhase2 y else m.ldPhase1 x, fun _ => rfl,
      .ite (fun m z => by rw [Mach.withField_pipelineState]) ?_ ?_⟩
    · exact .withIndex (k := fun j m => (m.set (.cr j) m.data).commit 3)
        fun j => (unaware_setCr_data j).andThen (unaware_commit 3)
    · exact .readCR (k := fun a m => { m.requestRead a with pipelineState := .execute2 })
        fun a => unaware_requestRead a .execute2

/-- A function of the state that answers what an unaware operation leaves. -/
theorem Unaware.outcomes {h : HiddenField} {f : Mach c → Mach c} {m x : Mach c}
    {o : State → Host.Outcome State Fault Refusal} (hf : Unaware h f) (hm : o ⟨c, m⟩ = .next ⟨c, f m⟩)
    (hx : o ⟨c, m.withField x h⟩ = .next ⟨c, f (m.withField x h)⟩) :
    ∃ t y : Mach c, o ⟨c, m⟩ = .next ⟨c, t⟩ ∧ o ⟨c, m.withField x h⟩ = .next ⟨c, t.withField y h⟩ := by
  obtain ⟨y, hy⟩ := hf m x
  exact ⟨f m, y, hm, hy ▸ hx⟩

/-- An instruction on machines that differ in a hidden field. -/
theorem exec_withField (h : HiddenField) (i : Instr) (hz : h = .zero → ∀ x, i ≠ .jz x) (m x : Mach c) :
    ∃ t y : Mach c, exec i ⟨c, m⟩ = .next ⟨c, t⟩ ∧ exec i ⟨c, m.withField x h⟩ = .next ⟨c, t.withField y h⟩ := by
  obtain ⟨f, hf, hu⟩ := exec_unaware (c := c) h i hz
  exact hu.outcomes (hf m) (hf _)

/-! ## The pipeline states, the RAM half and the step -/

section Step

variable {h : HiddenField}

theorem unaware_setPipelineState (p : PipelineState) : Unaware h fun m : Mach c => { m with pipelineState := p } :=
  .of_update fun _ _ => by cases h <;> rfl

theorem unaware_fetchStep : Unaware h fun m : Mach c => m.fetchStep :=
  .of_update fun _ _ => by cases h <;> rfl

theorem unaware_read2Step : Unaware h fun m : Mach c => m.read2Step :=
  .of_update fun _ _ => by cases h <;> rfl

theorem unaware_read1Step : Unaware h fun m : Mach c => m.read1Step := by
  refine .andThen (f := fun m => { m with arg1 := m.data }) (g := fun m => if m.argumentMode then
      m.argAddress 2 fun a => { m.requestRead a with pipelineState := .read2 }
    else { m with pipelineState := .execute1 }) (.of_update fun _ _ => by cases h <;> rfl) (.ite (fun m x => ?_) ?_ ?_)
  · rw [Mach.withField_argumentMode]
  · exact .argAddress fun a => unaware_requestRead a .read2
  · exact unaware_setPipelineState .execute1

theorem unaware_decodeStep : Unaware h fun m : Mach c => m.decodeStep := by
  intro m x
  have hdata : (m.withField x h).data = m.data := m.withField_data x h
  cases hl : lookup m.data.toNat with
  | none =>
    simp only [Mach.decodeStep_unknown hl, Mach.decodeStep_unknown (hdata ▸ hl)]
    exact Unaware.andThen (f := fun m : Mach c => { m with commandCode := m.data })
      (.of_update fun _ _ => by cases h <;> rfl) (unaware_raiseFatal .unknownOpcode) m x
  | some row =>
    simp only [Mach.decodeStep_known hl, Mach.decodeStep_known (hdata ▸ hl)]
    split
    · exact Unaware.of_update (f := fun m : Mach c => { m with commandCode := m.data, pipelineState := .execute1 })
        (fun _ _ => by cases h <;> rfl) m x
    · exact Unaware.andThen
        (f := fun m : Mach c => { m with commandCode := m.data, argumentMode := decide (row.arity = 2) })
        (.of_update fun _ _ => by cases h <;> rfl) (.argAddress fun a => unaware_requestRead a .read1) m x

/-- A pipeline state on machines that differ in a hidden field, which is not Zero where JZ runs. -/
theorem pipelineStep_withField (m x : Mach c)
    (hz : h = .zero → ¬ (m.pipelineState = .execute1 ∧ m.commandCode.toNat = 0x13)) :
    ∃ t y : Mach c, pipelineStep ⟨c, m⟩ = .next ⟨c, t⟩ ∧
      pipelineStep ⟨c, m.withField x h⟩ = .next ⟨c, t.withField y h⟩ := by
  have hstate : (m.withField x h).pipelineState = m.pipelineState := m.withField_pipelineState x h
  cases hp : m.pipelineState <;> rw [hp] at hstate
  case fetch => exact unaware_fetchStep.outcomes (pipelineStep_fetch hp) (pipelineStep_fetch hstate)
  case decode => exact unaware_decodeStep.outcomes (pipelineStep_decode hp) (pipelineStep_decode hstate)
  case read1 => exact unaware_read1Step.outcomes (pipelineStep_read1 hp) (pipelineStep_read1 hstate)
  case read2 => exact unaware_read2Step.outcomes (pipelineStep_read2 hp) (pipelineStep_read2 hstate)
  case execute1 =>
    have hscratch : (m.withField x h).scratch = m.scratch := m.withField_scratch x h
    cases hd : decode m.scratch with
    | error e =>
      exact (unaware_raiseFatal _).outcomes (pipelineStep_execute1_unknown hp hd)
        (pipelineStep_execute1_unknown hstate (hscratch ▸ hd))
    | ok r =>
      rw [pipelineStep_execute1 hp hd, pipelineStep_execute1 hstate (hscratch ▸ hd)]
      refine exec_withField h r.1 (fun hzero a hjz => hz hzero ⟨hp, ?_⟩) m x
      rw [← decode_opcode hd, hjz]
      rfl
  case execute2 =>
    by_cases hop : m.commandCode.toNat = ldOpcode
    · rw [pipelineStep_execute2 hp hop, pipelineStep_execute2 hstate (by simpa using hop), Mach.withField_arg1,
        Mach.withField_arg2]
      exact exec_withField h _ (by simp) m x
    · exact (unaware_raiseFatal _).outcomes (pipelineStep_execute2_other hp hop)
        (pipelineStep_execute2_other hstate (by simpa using hop))
  case invalid6 =>
    exact (unaware_raiseFatal _).outcomes (pipelineStep_invalid (.inl hp)) (pipelineStep_invalid (.inl hstate))
  case invalid7 =>
    exact (unaware_raiseFatal _).outcomes (pipelineStep_invalid (.inr hp)) (pipelineStep_invalid (.inr hstate))

/-- The RAM half reads no hidden field. -/
theorem Mach.serviceRequest_withField {m t : Mach c} (x : Mach c) (hs : m.serviceRequest = some t) :
    (m.withField x h).serviceRequest = some (t.withField x h) := by
  rw [Mach.serviceRequest_eq] at hs ⊢
  simp only [Mach.withField_en, Mach.withField_addr, Mach.withField_wr, Mach.withField_ram, Mach.withField_data]
  split at hs
  · next hen =>
    cases hs
    rw [if_pos hen]
  · next hen =>
    split at hs
    · cases hs
    · next hin =>
      rw [if_neg hen, if_neg hin]
      split at hs
      · next hwr =>
        cases hs
        rw [if_pos hwr]
        cases h <;> rfl
      · next hwr =>
        cases hs
        rw [if_neg hwr]
        cases h <;> rfl

/-- A step on machines that differ in a hidden field, which is not Zero where JZ runs. -/
theorem step_withField {m t : Mach c} (x : Mach c)
    (hz : h = .zero → ¬ (m.pipelineState = .execute1 ∧ m.commandCode.toNat = 0x13))
    (hs : step ⟨c, m⟩ = .next ⟨c, t⟩) : ∃ y : Mach c, step ⟨c, m.withField x h⟩ = .next ⟨c, t.withField y h⟩ := by
  obtain ⟨hm, he⟩ | ⟨-, -, he⟩ | ⟨u, v, hm, hr, hp, he⟩ := step_cases m <;> cases he.symm.trans hs
  · exact ⟨x, step_halted _ (by simpa using hm)⟩
  · have hcleared : { u.withField x h with en := false } = Mach.withField { u with en := false } x h := by
      cases h <;> rfl
    rw [step_running _ (by simpa using hm) (Mach.serviceRequest_withField x hr), hcleared]
    have hu := Mach.serviceRequest_some hr
    obtain ⟨t', y, ht, hy⟩ := pipelineStep_withField (h := h) { u with en := false } x (by rw [hu]; exact hz)
    cases ht.symm.trans hp
    exact ⟨y, hy⟩

end Step

/-! ## The statements -/

/-- Settles O21: a strobe keeps the halt flags, sets both by a fault or Terminated alone by RST, and no instruction
carries a difference in Fatal further. -/
theorem fatalIsStickyAndReadByNoInstruction : Obligations.FatalIsStickyAndReadByNoInstruction := by
  refine ⟨fun _ _ _ => ⟨rfl, rfl⟩, fun c m t b strobe hs h => ?_, fun c m t i b h => ?_, rfl⟩
  · have hk := strobe_keeps hs h
    exact ⟨hk.fatal_sticky, hk.fatal_set⟩
  · obtain ⟨t', y, ht, hy⟩ := exec_withField .fatal i nofun m { m with fatal := b }
    cases ht.symm.trans h
    exact ⟨_, hy, rfl⟩

/-- Settles O22: a commit overwrites Overflow with the carries of its two increments, and no instruction carries a
difference in Overflow further. -/
theorem overflowIsOverwrittenAndReadByNoInstruction : Obligations.OverflowIsOverwrittenAndReadByNoInstruction := by
  refine ⟨fun c m r v => ?_, fun c m n b => ⟨m.commit_overflow n, m.commit_setOverflow b n⟩, fun c m t i b h => ?_, rfl⟩
  · exact ⟨rfl, rfl, m.set_terminated r _, m.set_terminated r _⟩
  · obtain ⟨t', y, ht, hy⟩ := exec_withField .overflow i nofun m { m with overflow := b }
    cases ht.symm.trans h
    exact ⟨_, hy, rfl⟩

/-- Settles O23: only the handler of CMP writes Zero, and only that of JZ carries a difference in Zero further. -/
theorem zeroIsWrittenByCmpAndReadByJzOnly : Obligations.ZeroIsWrittenByCmpAndReadByJzOnly := by
  refine ⟨fun c m t b strobe hs h => (strobe_keeps hs h).zero, fun c m t x y hx hy h => ?_, fun c m t i b hi h => ?_,
    fun c m t b hjz h => ?_, rfl⟩
  · cases (exec_cmp m hx hy).symm.trans h
    exact Mach.commit_zero _ 3
  · obtain ⟨t', y, ht, hy⟩ := exec_withField .zero i (fun _ => hi) m { m with zero := b }
    cases ht.symm.trans h
    exact ⟨_, hy, rfl⟩
  · obtain ⟨y, hy⟩ := step_withField (h := .zero) { m with zero := b } (fun _ => hjz) h
    exact ⟨_, hy, rfl⟩

/-- Settles O24: AR is written by its seven handlers alone, and no step carries a difference in AR further, since the
carry of an accumulator operation does not survive its commit. -/
theorem accumulatorReachesOnlyItself : Obligations.AccumulatorReachesOnlyItself := by
  refine ⟨fun c m t b strobe hs h => ?_, fun c m t v h => ?_, rfl⟩
  · exact (strobe_keeps hs h).ar.imp_right fun ⟨k, hk, hp, hop⟩ => ⟨hp, hop ▸ hk⟩
  · obtain ⟨y, hy⟩ := step_withField (h := .ar) { m with ar := v } nofun h
    exact ⟨_, hy, rfl⟩

/-- Settles O25: no step carries a difference in the ghost record further. -/
theorem ghostRecordIsReadByNothing : Obligations.GhostRecordIsReadByNothing := by
  intro c m t g h
  obtain ⟨y, hy⟩ := step_withField (h := .ghostCause) { m with ghostCause := g } nofun h
  exact ⟨_, hy, rfl⟩

end Sys2Proof.Machine
end

section
/-! The statements of 20_memory: RAM as an array of bits, the canonical form, the RAM responder, and a store that the
next instruction's fetch reads. -/

namespace Sys2Proof.Machine

variable {c : Config}

/-! ## RAM as an array of bits -/

/-- The word at address a stands at bit a * W of RAM (20_memory R50, R51). -/
theorem Mach.getBits_ramImage (m : Mach c) {a : Nat} (ha : a < c.ramWords) :
    getBits m.ramImage (a * c.w) c.w = Ram.read m.ram a := by
  apply BitVec.eq_of_getLsbD_eq
  intro i hi
  have hn : a * c.w + i < c.ramWords * c.w := by
    have := slot_end_le (w := c.w) ha
    omega
  obtain ⟨hd, hr⟩ : (a * c.w + i) / c.w = a ∧ (a * c.w + i) % c.w = i :=
    (Nat.div_mod_unique (Nat.zero_lt_of_lt hi)).2 ⟨by rw [Nat.mul_comm, Nat.add_comm], hi⟩
  simp [Mach.ramImage, hi, hn, hd, hr]

/-- Settles O14: bit a * W + i of RAM is bit i of word a. -/
theorem ramWordStandsAtItsBitOffset : Obligations.RamWordStandsAtItsBitOffset :=
  fun _ m _ ha => m.getBits_ramImage ha

/-! ## The canonical form -/

section Canonical

variable {w n : Nat}

/-- The canonical form of a list with a first entry. -/
theorem Ram.wfFrom_cons {lo k : Nat} {v : Word w} {rest : Ram w} :
    Ram.wfFrom n lo ((k, v) :: rest) = true ↔
      lo ≤ k ∧ k < n ∧ v ≠ Ram.unlisted w ∧ Ram.wfFrom n (k + 1) rest = true := by
  simp only [Ram.wfFrom, Bool.and_eq_true, decide_eq_true_eq, and_assoc]

/-- A read of the first entry's address answers its word. -/
theorem Ram.read_head (k : Nat) (v : Word w) (rest : Ram w) : Ram.read ((k, v) :: rest) k = v := if_pos rfl

/-- A read of another address passes the first entry by. -/
theorem Ram.read_tail {k a : Nat} (v : Word w) (rest : Ram w) (h : k ≠ a) :
    Ram.read ((k, v) :: rest) a = Ram.read rest a := if_neg h

/-- The first address of a canonical list is at or below every address that the list gives a word to. -/
theorem Ram.head_le_of_read_ne {lo k a : Nat} {v : Word w} {rest : Ram w}
    (h : Ram.wfFrom n lo ((k, v) :: rest) = true) (ha : Ram.read ((k, v) :: rest) a ≠ Ram.unlisted w) : k ≤ a := by
  obtain ⟨-, hk, hv, hrest⟩ := Ram.wfFrom_cons.1 h
  have hfirst : Ram.wfFrom n k ((k, v) :: rest) = true := Ram.wfFrom_cons.2 ⟨Nat.le_refl k, hk, hv, hrest⟩
  exact Nat.le_of_not_lt fun hlt => ha (Ram.read_below hfirst hlt)

/-- Canonical lists with the same words are equal: their first entries agree, and so do the words of their rests. -/
theorem Ram.eq_of_wfFrom {r s : Ram w} {lo : Nat} (hr : Ram.wfFrom n lo r = true) (hs : Ram.wfFrom n lo s = true)
    (h : ∀ a, Ram.read r a = Ram.read s a) : r = s := by
  induction r generalizing s lo with
  | nil =>
    cases s with
    | nil => rfl
    | cons e s =>
      obtain ⟨k, v⟩ := e
      obtain ⟨-, -, hv, -⟩ := Ram.wfFrom_cons.1 hs
      exact absurd ((Ram.read_head k v s).symm.trans (h k).symm) hv
  | cons e r ih =>
    obtain ⟨k, v⟩ := e
    obtain ⟨-, -, hv, hr'⟩ := Ram.wfFrom_cons.1 hr
    cases s with
    | nil => exact absurd ((Ram.read_head k v r).symm.trans (h k)) hv
    | cons e' s =>
      obtain ⟨k', v'⟩ := e'
      obtain ⟨-, -, hv', hs'⟩ := Ram.wfFrom_cons.1 hs
      have hle : k ≤ k' := Ram.head_le_of_read_ne hr (by rwa [h, Ram.read_head])
      have hge : k' ≤ k := Ram.head_le_of_read_ne hs (by rwa [← h, Ram.read_head])
      obtain rfl : k = k' := Nat.le_antisymm hle hge
      have hword : v = v' := by simpa only [Ram.read_head] using h k
      have htail : ∀ a, Ram.read r a = Ram.read s a := by
        intro a
        by_cases ha : k = a
        · rw [Ram.read_below hr' (by omega), Ram.read_below hs' (by omega)]
        · simpa only [Ram.read_tail _ _ ha] using h a
      rw [hword, ih hr' hs' htail]

/-- Writing the same word twice is writing it once. -/
theorem Ram.write_write_same {ram : Ram w} {a : Nat} (v : Word w) (h : Ram.wf n ram = true) (ha : a < n) :
    Ram.write (Ram.write ram a v) a v = Ram.write ram a v := by
  have hwf : Ram.wf n (Ram.write ram a v) = true := Ram.write_wf h ha
  refine Ram.eq_of_wfFrom (Ram.write_wf hwf ha) hwf fun b => ?_
  rw [Ram.read_write_from hwf, Ram.read_write_from h]
  split <;> rfl

end Canonical

/-- Settles O15, by induction on the two lists. -/
theorem canonicalRamIsDeterminedByItsWords : Obligations.CanonicalRamIsDeterminedByItsWords :=
  fun _ _ _ _ hr hs h => Ram.eq_of_wfFrom hr hs h

/-! ## The RAM responder -/

section Responder

variable {m t : Mach c}

/-- A request beyond RAM is not serviced (20_memory R52). -/
theorem Mach.serviceRequest_beyond (hen : m.en = true) (ha : c.ramWords ≤ m.addr.toNat) : m.serviceRequest = none := by
  rw [Mach.serviceRequest_eq, if_neg (by simp [hen]), if_pos ha]

/-- A write request puts DATA into the word at ADDR (20_memory R54). -/
theorem Mach.serviceRequest_write (hen : m.en = true) (ha : m.addr.toNat < c.ramWords) (hwr : m.wr = true) :
    m.serviceRequest = some { m with ram := Ram.write m.ram m.addr.toNat m.data } := by
  rw [Mach.serviceRequest_eq, if_neg (by simp [hen]), if_neg (Nat.not_le.2 ha), if_pos hwr]

/-- A read request puts the word at ADDR into DATA (20_memory R54). -/
theorem Mach.serviceRequest_read (hen : m.en = true) (ha : m.addr.toNat < c.ramWords) (hwr : m.wr = false) :
    m.serviceRequest = some { m with data := Ram.read m.ram m.addr.toNat } := by
  rw [Mach.serviceRequest_eq, if_neg (by simp [hen]), if_neg (Nat.not_le.2 ha), if_neg (by simp [hwr])]

/-- Servicing a request again changes nothing (20_memory R55). -/
theorem Mach.serviceRequest_again (hw : Ram.wf c.ramWords m.ram = true) (hs : m.serviceRequest = some t) :
    t.serviceRequest = some t := by
  cases hen : m.en with
  | false =>
    cases (Mach.serviceRequest_idle m hen).symm.trans hs
    exact hs
  | true =>
    by_cases ha : m.addr.toNat < c.ramWords
    · cases hwr : m.wr with
      | true =>
        cases (Mach.serviceRequest_write hen ha hwr).symm.trans hs
        have hagain := Mach.serviceRequest_write (m := { m with ram := Ram.write m.ram m.addr.toNat m.data })
          hen ha hwr
        rwa [Ram.write_write_same m.data hw ha] at hagain
      | false =>
        cases (Mach.serviceRequest_read hen ha hwr).symm.trans hs
        exact Mach.serviceRequest_read hen ha hwr
    · cases (Mach.serviceRequest_beyond hen (Nat.not_lt.1 ha)).symm.trans hs

end Responder

/-- Settles O16, by the four cases of the responder. -/
theorem ramTickServicesTheRequest : Obligations.RamTickServicesTheRequest := by
  intro c m hm hw
  refine ⟨fun hen => ?_, fun hen ha => ?_, fun hen ha hwr => ?_, fun hen ha hwr => ?_⟩
  · exact tickRam_serviced hm (m.serviceRequest_idle hen)
  · exact tickRam_hostError hm (Mach.serviceRequest_beyond hen ha)
  · exact ⟨_, tickRam_serviced hm (Mach.serviceRequest_write hen ha hwr), fun b => Ram.read_write_from hw⟩
  · exact tickRam_serviced hm (Mach.serviceRequest_read hen ha hwr)

/-- Settles O17: a second write of the same word leaves the same canonical list, and a second read answers the same
word. -/
theorem servicingARequestTwiceIsServicingItOnce : Obligations.ServicingARequestTwiceIsServicingItOnce := by
  intro c m t hw hm h
  cases hs : m.serviceRequest with
  | none => cases (tickRam_hostError hm hs).symm.trans h
  | some u =>
    cases (tickRam_serviced hm hs).symm.trans h
    have ht : t.terminated = false := by rwa [Mach.serviceRequest_some hs]
    exact tickRam_serviced ht (Mach.serviceRequest_again hw hs)

/-! ## A commit that does not fault -/

/-- The sum of the bit-serial adder is the sum mod 2^W (40_alu R101). -/
theorem addW_sum {w : Nat} (a b : Word w) : (addW a b).1 = a + b := by
  apply BitVec.eq_of_getLsbD_eq
  intro i hi
  rw [BitVec.getLsbD_add hi, addW, getLsbD_bitsOf, carryInto_eq_carry]
  simp [hi]

/-- The carry of the bit-serial adder is the unsigned overflow (40_alu R101). -/
theorem addW_carry {w : Nat} (a b : Word w) : (addW a b).2 = decide (2 ^ w ≤ a.toNat + b.toNat) := by
  simp [addW, carryInto_eq_carry, BitVec.carry]

/-- A commit whose increments do not carry (40_alu R112, R114). -/
theorem Mach.commit_of_canCommit {m : Mach c} {n : Nat} (h : m.canCommit n) : m.commit n = m.committed n := by
  obtain ⟨hcounter, hip⟩ := h
  have hn : n % 2 ^ c.w ≤ n := Nat.mod_le _ _
  have h1 : 1 % 2 ^ c.w ≤ 1 := Nat.mod_le _ _
  rw [Mach.commit_eq, if_neg, if_neg, addW_sum, addW_sum]
  · rfl
  · simp only [addW_carry, BitVec.toNat_ofNat, decide_eq_true_eq]
    omega
  · simp only [addW_carry, BitVec.toNat_ofNat, decide_eq_true_eq]
    omega

/-! ## A store that the next fetch reads -/

/-- A run whose first step answers a next state goes on from it (70_reset R260). -/
theorem run_succ {s t : State} (n : Nat) (h : step s = .next t) : run (n + 1) s = run n t := by
  simp [run, h]

/-- A Decode tick leaves DATA in CommandCode, a fault or none (41_pipeline R134). -/
theorem Mach.decodeStep_commandCode (m : Mach c) : m.decodeStep.commandCode = m.data := by
  cases hl : lookup m.data.toNat with
  | none => rw [Mach.decodeStep_unknown hl, Mach.raiseFatal_commandCode]
  | some row =>
    rw [Mach.decodeStep_known hl, Mach.argAddress_eq]
    split
    · rfl
    · split <;> rfl

section Steps

variable {m u : Mach c} (hm : m.terminated = false)
include hm

/-- With nothing pending, the step of a running machine in Execute1 is the handler of its instruction. -/
theorem step_execute1 (hp : m.pipelineState = .execute1) (hen : m.en = false) {i : Instr} {rest : List (Word c.w)}
    (hd : decode m.scratch = .ok (i, rest)) : step ⟨c, m⟩ = exec i ⟨c, m⟩ := by
  have hcleared : { m with en := false } = m := by rw [← hen]
  rw [step_running m hm (m.serviceRequest_idle hen), hcleared, pipelineStep_execute1 hp hd]

/-- The step of a running machine in Fetch services its request, then requests the opcode word. -/
theorem step_fetch (hp : m.pipelineState = .fetch) (hs : m.serviceRequest = some u) :
    step ⟨c, m⟩ = .next ⟨c, Mach.fetchStep { u with en := false }⟩ := by
  rw [step_running m hm hs, pipelineStep_fetch]
  rw [Mach.serviceRequest_some hs]
  exact hp

/-- The step of a running machine in Decode services its request, then decodes DATA. -/
theorem step_decode (hp : m.pipelineState = .decode) (hs : m.serviceRequest = some u) :
    step ⟨c, m⟩ = .next ⟨c, Mach.decodeStep { u with en := false }⟩ := by
  rw [step_running m hm hs, pipelineStep_decode]
  rw [Mach.serviceRequest_some hs]
  exact hp

/-- The two ticks of a fetch bring into CommandCode the word that stands at IP after the request pending in Fetch is
serviced: the read of that word is serviced one tick later (41_pipeline R133, R134). -/
theorem run_fetch (hp : m.pipelineState = .fetch) (hs : m.serviceRequest = some u) (hin : m.ip.toNat < c.ramWords) :
    ∃ t : Mach c, run 2 ⟨c, m⟩ = .next ⟨c, t⟩ ∧ t.commandCode = Ram.read u.ram m.ip.toNat := by
  have hip : u.ip = m.ip := by rw [Mach.serviceRequest_some hs]
  have hu : u.terminated = false := by rwa [Mach.serviceRequest_some hs]
  rw [← hip] at hin ⊢
  have hread := Mach.serviceRequest_read (m := Mach.fetchStep { u with en := false }) rfl hin rfl
  exact ⟨_, (run_succ 1 (step_fetch hm hp hs)).trans (run_succ 0 (step_decode hu rfl hread)),
    Mach.decodeStep_commandCode _⟩

/-- With a write to the word at IP pending in Fetch, the fetch brings the written word into CommandCode
(20_memory R65). -/
theorem run_fetch_of_pendingWrite (hp : m.pipelineState = .fetch) (hen : m.en = true) (hwr : m.wr = true)
    (haddr : m.addr = m.ip) (hin : m.ip.toNat < c.ramWords) (hw : Ram.wf c.ramWords m.ram = true) :
    ∃ t : Mach c, run 2 ⟨c, m⟩ = .next ⟨c, t⟩ ∧ t.commandCode = m.data := by
  have hwrite := Mach.serviceRequest_write hen (haddr ▸ hin) hwr
  obtain ⟨t, ht, hcode⟩ := run_fetch hm hp hwrite hin
  refine ⟨t, ht, hcode.trans ?_⟩
  rw [Mach.read_serviceRequest hwrite hw, if_pos ⟨hen, hwr, by rw [haddr]⟩]

end Steps

/-- Settles O45: ST's tick leaves Fetch with its write pending at the new IP, and the fetch services the write first. -/
theorem stIsSeenByTheNextFetch : Obligations.StIsSeenByTheNextFetch := by
  intro c m x y hx hy rest hm hp hen hd hw hcommit haddr hin
  have hst : step ⟨c, m⟩ = .next ⟨c, (m.requestWrite m.cr[y] m.cr[x]).committed 3⟩ := by
    rw [step_execute1 hm hp hen hd, exec_st m hx hy,
      Mach.commit_of_canCommit (m := m.requestWrite m.cr[y] m.cr[x]) hcommit]
  obtain ⟨t, ht, hcode⟩ := run_fetch_of_pendingWrite (m := (m.requestWrite m.cr[y] m.cr[x]).committed 3) hm rfl rfl rfl
    haddr (haddr ▸ hin) hw
  exact ⟨t, (run_succ 2 hst).trans ht, hcode⟩

end Sys2Proof.Machine
end

section
/-! The statements of 30_encoding: decoding and encoding are inverse, the illegal opcodes, and the opcodes that need
words of five bits. -/

namespace Sys2Proof

variable {w : Nat}

/-! ## The rows of the table and their instructions -/

/-- The instruction that a row makes of its argument words' values, 0 where none is taken (30_encoding R81). -/
def OpcodeRow.instr (row : OpcodeRow) (values : List Nat) : Instr := row.build (values.getD 0 0) (values.getD 1 0)

/-- An instruction takes as many operands as its row's arity (30_encoding R85). -/
theorem operands_build {row : OpcodeRow} (h : row ∈ opcodeTable) (x y : Nat) :
    (row.build x y).operands = [x, y].take row.arity := by
  revert row
  simp [opcodeTable, Instr.operands]

/-- `lookup_arity` as a bound. -/
theorem lookup_arity_le {op : Nat} {row : OpcodeRow} (h : lookup op = some row) : row.arity ≤ 2 := by
  have := lookup_arity h
  omega

/-- A row's instruction has the given values as its operands, in their order (30_encoding R81). -/
theorem OpcodeRow.instr_operands {op : Nat} {row : OpcodeRow} (hl : lookup op = some row) {values : List Nat}
    (hlen : values.length = row.arity) : (row.instr values).operands = values := by
  rw [OpcodeRow.instr, operands_build (lookup_some hl).1, ← hlen]
  match values, hlen ▸ lookup_arity_le hl with
  | [], _ | [_], _ | [_, _], _ => rfl
  | _ :: _ :: _ :: _, hle => simp at hle

/-- The row of an instruction's opcode makes that instruction of its operands (30_encoding R85). -/
theorem lookup_opcode (i : Instr) :
    ∃ row, lookup i.opcode = some row ∧ i.operands.length = row.arity ∧ row.instr i.operands = i := by
  cases i <;> exact ⟨_, rfl, rfl, rfl⟩

/-- Exactly 0x10, 0x11 and 0x14 up are in no row (30_encoding R87). -/
theorem lookup_eq_none_iff {op : Nat} : lookup op = none ↔ op = 0x10 ∨ op = 0x11 ∨ 0x14 ≤ op := by
  simp only [lookup, opcodeTable, List.find?_eq_none, List.forall_mem_cons, List.not_mem_nil, false_implies,
    implies_true, and_true, decide_eq_true_eq]
  omega

/-! ## Words and the values they stand for -/

/-- The word of a value that fits stands for that value (40_alu R105). -/
theorem toNat_fromValue {n : Nat} (h : n < 2 ^ w) : (fromValue w n).toNat = n :=
  (BitVec.toNat_ofNat n w).trans (Nat.mod_eq_of_lt h)

/-- The words of values that fit stand for those values. -/
theorem map_toNat_map_fromValue {values : List Nat} (h : ∀ n ∈ values, n < 2 ^ w) :
    (values.map (fromValue w)).map BitVec.toNat = values := by
  rw [List.map_map]
  exact (List.map_congr_left fun n hn => toNat_fromValue (h n hn)).trans (List.map_id' values)

/-- The words of an instruction, its opcode word first (30_encoding R80). -/
theorem encode_cons (i : Instr) : encode w i = fromValue w i.opcode :: i.operands.map (fromValue w) := rfl

/-- A well-formed instruction is one whose opcode and operands fit (30_encoding R83, R88). -/
theorem Instr.wf_iff {i : Instr} : i.wf w = true ↔ i.opcode < 2 ^ w ∧ ∀ x ∈ i.operands, x < 2 ^ w := by
  simp [Instr.wf, Instr.opcodeFits, Instr.operandsFit]

/-- An instruction whose opcode and operands are the values of words is well-formed, and those are its words. -/
theorem wf_and_encode_of_words {i : Instr} {v : Word w} {args : List (Word w)} (hop : i.opcode = v.toNat)
    (hargs : i.operands = args.map BitVec.toNat) : i.wf w = true ∧ encode w i = v :: args := by
  constructor
  · rw [Instr.wf_iff, hop, hargs]
    simp [BitVec.isLt]
  · rw [encode_cons, hop, hargs]
    simp [Function.comp_def]

/-! ## The decoder -/

/-- With a listed opcode word, the decoder takes as many argument words as the row's arity, and answers the row's
instruction (30_encoding R80, R86). -/
theorem decode_known {v : Word w} {row : OpcodeRow} (hl : lookup v.toNat = some row) {args : List (Word w)}
    (hlen : args.length = row.arity) (rest : List (Word w)) :
    decode (v :: (args ++ rest)) = .ok (row.instr (args.map BitVec.toNat), rest) := by
  rw [decode_cons, hl]
  obtain h | h | h := lookup_arity hl <;> rw [h] at hlen
  · obtain rfl := List.length_eq_zero_iff.1 hlen
    simp [h, OpcodeRow.instr]
  · obtain ⟨x, rfl⟩ := List.length_eq_one_iff.1 hlen
    simp [h, OpcodeRow.instr]
  · obtain ⟨x, y, rfl⟩ := List.length_eq_two.1 hlen
    simp [h, OpcodeRow.instr]

/-- Words that decode are a listed opcode word, the argument words of its row, and the rest. -/
theorem decode_ok {v : Word w} {ws rest : List (Word w)} {i : Instr} (h : decode (v :: ws) = .ok (i, rest)) :
    ∃ row args, lookup v.toNat = some row ∧ args.length = row.arity ∧ ws = args ++ rest ∧
      i = row.instr (args.map BitVec.toNat) := by
  rw [decode_cons] at h
  split at h
  · cases h
  · next row hl =>
    split at h <;> cases h
    · next ha => exact ⟨row, [], hl, ha.symm, rfl, rfl⟩
    · next x ha => exact ⟨row, [x], hl, ha.symm, rfl, rfl⟩
    · next x y ha => exact ⟨row, [x, y], hl, ha.symm, rfl, rfl⟩

/-- The decoder calls exactly the opcode words of no row unknown (30_encoding R87). -/
theorem decode_unknownOpcode_iff {v : Word w} {rest : List (Word w)} :
    decode (v :: rest) = .error .unknownOpcode ↔ lookup v.toNat = none := by
  rw [decode_cons]
  split
  · next hl => simp [hl]
  · next row hl => split <;> simp [hl]

/-- Words decode to an instruction exactly when they begin with the encoding of it and it is well-formed. -/
theorem decode_eq_ok_iff {ws rest : List (Word w)} {i : Instr} :
    decode ws = .ok (i, rest) ↔ i.wf w = true ∧ ws = encode w i ++ rest := by
  constructor
  · intro h
    match ws with
    | [] => cases h
    | v :: ws =>
      have hop := decode_opcode h
      obtain ⟨row, args, hl, hlen, rfl, rfl⟩ := decode_ok h
      have hargs := OpcodeRow.instr_operands hl (values := args.map BitVec.toNat) (by rw [List.length_map, hlen])
      obtain ⟨hwf, hwords⟩ := wf_and_encode_of_words hop hargs
      exact ⟨hwf, by rw [hwords, List.cons_append]⟩
  · rintro ⟨hwf, rfl⟩
    obtain ⟨hop, hargs⟩ := Instr.wf_iff.1 hwf
    obtain ⟨row, hl, hlen, hrow⟩ := lookup_opcode i
    rw [encode_cons, List.cons_append, decode_known ((toNat_fromValue hop).symm ▸ hl) (by rw [List.length_map, hlen]),
      map_toNat_map_fromValue hargs, hrow]

/-- Settles O4: one direction of `decode_eq_ok_iff`. -/
theorem decodingAnEncodingGivesTheInstructionBack : Obligations.DecodingAnEncodingGivesTheInstructionBack :=
  fun _ _ _ hwf => decode_eq_ok_iff.2 ⟨hwf, rfl⟩

/-- Settles O5: the other direction of `decode_eq_ok_iff`. -/
theorem decodedWordsAreTheEncodingOfTheirInstruction : Obligations.DecodedWordsAreTheEncodingOfTheirInstruction :=
  fun _ _ _ _ h => decode_eq_ok_iff.1 h

/-! ## The opcodes that fit a word -/

/-- The opcodes 0x12 and 0x13 fit the words of five bits and more (30_encoding R88). -/
theorem opcodeFits_iff_five_le {i : Instr} (h : i.opcode = 0x12 ∨ i.opcode = 0x13) :
    i.opcodeFits w = true ↔ 5 ≤ w := by
  have hlo : 2 ^ 4 ≤ i.opcode := by omega
  have hhi : i.opcode < 2 ^ 5 := by omega
  rw [Instr.opcodeFits, decide_eq_true_eq]
  constructor
  · intro hfits
    exact (Nat.pow_lt_pow_iff_right (by decide)).1 (Nat.lt_of_le_of_lt hlo hfits)
  · intro hw
    exact Nat.lt_of_lt_of_le hhi (Nat.pow_le_pow_right (by decide) hw)

/-- Every opcode but those of CMP and JZ has at most four bits (30_encoding R85). -/
theorem opcode_lt_of_ne {i : Instr} (hcmp : ∀ x y, i ≠ .cmp x y) (hjz : ∀ x, i ≠ .jz x) : i.opcode < 2 ^ 4 := by
  cases i
  case cmp x y => exact absurd rfl (hcmp x y)
  case jz x => exact absurd rfl (hjz x)
  all_goals simp [Instr.opcode]

/-- Settles O7: CMP and JZ have the opcodes of five bits, and every other opcode, like every 4-bit word, has four. -/
theorem cmpAndJzNeedFiveBits : Obligations.CmpAndJzNeedFiveBits := by
  refine ⟨fun w x y => ?_, fun c i hcmp hjz => ?_, fun v rest h => ?_⟩
  · exact ⟨opcodeFits_iff_five_le (.inl rfl), opcodeFits_iff_five_le (.inr rfl)⟩
  · have hw : 2 ^ 4 ≤ 2 ^ c.w := Nat.pow_le_pow_right (by decide) c.wide
    exact decide_eq_true (Nat.lt_of_lt_of_le (opcode_lt_of_ne hcmp hjz) hw)
  · have hv := v.isLt
    have := lookup_eq_none_iff.1 (decode_unknownOpcode_iff.1 h)
    omega

/-- Settles O8, by evaluation. -/
theorem specWordsDecodeToTheirInstructions : Obligations.SpecWordsDecodeToTheirInstructions :=
  ⟨rfl, rfl, rfl, rfl, rfl, rfl, rfl, rfl, rfl, rfl, rfl⟩

end Sys2Proof

namespace Sys2Proof.Machine

variable {c : Config}

/-- A Decode tick that consumes an opcode word of no row faults in that tick (41_pipeline R134). -/
theorem cpuTick_decode_unknown {m : Mach c} (hm : m.terminated = false) (hp : m.pipelineState = .decode)
    (hl : lookup m.data.toNat = none) :
    cpuTick ⟨c, m⟩ = .next (⟨c, Mach.raiseFatal { m with commandCode := m.data, en := false } .unknownOpcode⟩, true) := by
  obtain ⟨t, ht, hc⟩ := cpuTick_running m hm
  cases (pipelineStep_decode (m := { m with en := false }) hp).symm.trans ht
  rw [hc, Mach.decodeStep_unknown (m := { m with en := false }) hl]

/-- Settles O6, by the opcodes that a lookup does not find. -/
theorem exactlyTheUnlistedOpcodesAreIllegal : Obligations.ExactlyTheUnlistedOpcodesAreIllegal := by
  refine ⟨fun w v rest => ?_, fun w v x y hv => ?_, fun c m hm hp hv => ?_⟩
  · rw [decode_unknownOpcode_iff, lookup_eq_none_iff]
  · obtain ⟨row, hl⟩ := Option.ne_none_iff_exists'.1 (mt lookup_eq_none_iff.1 hv)
    have hlen : ([x, y].take row.arity).length = row.arity := List.length_take_of_le (lookup_arity_le hl)
    have hd := decode_known hl hlen ([x, y].drop row.arity)
    rw [List.take_append_drop] at hd
    exact ⟨_, _, hd⟩
  · exact ⟨_, cpuTick_decode_unknown hm hp (lookup_eq_none_iff.2 hv), ⟨rfl, rfl⟩, rfl⟩

end Sys2Proof.Machine
end

section
/-! The ALU's difference, and the statements about the ALU and about the register operations built on it (40_alu R100 to
R108). -/

namespace Sys2Proof.Machine

/-! ## The adder and the subtractor -/

/-- Settles O1, by the adder's sum and carry as those of words. -/
theorem additionIsUnsignedSumWithCarry : Obligations.AdditionIsUnsignedSumWithCarry :=
  fun _ a b => ⟨by rw [addW_sum, BitVec.toNat_add], addW_carry a b⟩

/-- A full subtractor is a full adder on the complements of b and of the borrow, its carry complemented
(40_alu R100, R102). -/
theorem borrowOut_eq_not_majority (a b bo : Bool) : borrowOut a b bo = !majority a (!b) (!bo) := by
  revert a b bo
  decide

section Subtractor

variable {w : Nat} (a b : Word w)

/-- The subtractor's borrow chain is the complement of the carry chain of `a + ~b + 1` (40_alu R102). -/
theorem borrowInto_eq_not_carry {i : Nat} (hi : i ≤ w) : borrowInto a b i = !BitVec.carry i a (~~~b) true := by
  induction i with
  | zero => simp [BitVec.carry, borrowInto, Nat.mod_one]
  | succ i ih =>
    have hbit : (~~~b).getLsbD i = !b.getLsbD i := by simp [Nat.lt_of_succ_le hi]
    rw [borrowInto, ih (Nat.le_of_succ_le hi), borrowOut_eq_not_majority, BitVec.carry_succ, hbit, Bool.not_not]
    rfl

/-- The borrow of the bit-serial subtractor says that a is below b (40_alu R103). -/
theorem subW_borrow : (subW a b).2 = decide (a.toNat < b.toNat) := by
  simp [subW, borrowInto_eq_lt]

/-- The difference of the bit-serial subtractor is the difference mod 2^W (40_alu R103). -/
theorem subW_difference : (subW a b).1 = a - b := by
  have hone : BitVec.setWidth w (BitVec.ofBool true) = 1#w := BitVec.eq_of_toNat_eq (by simp)
  have hsub : a - b = a + ~~~b + BitVec.setWidth w (BitVec.ofBool true) := by
    rw [hone, BitVec.sub_eq_add_neg, BitVec.neg_eq_not_add, BitVec.add_assoc]
  apply BitVec.eq_of_getLsbD_eq
  intro i hi
  rw [hsub, BitVec.getLsbD_add_add_bool hi, subW, getLsbD_bitsOf, borrowInto_eq_not_carry a b (Nat.le_of_lt hi)]
  simp [hi]

end Subtractor

/-- Settles O2, by the subtractor's difference and borrow as those of words. -/
theorem subtractionIsUnsignedDifferenceWithBorrow : Obligations.SubtractionIsUnsignedDifferenceWithBorrow := by
  intro w a b
  have hb : b.toNat < 2 ^ w := b.isLt
  have hcomm : 2 ^ w + a.toNat - b.toNat = 2 ^ w - b.toNat + a.toNat := by omega
  exact ⟨by rw [subW_difference, BitVec.toNat_sub, hcomm], subW_borrow a b⟩

/-! ## Adding to and subtracting from a register -/

variable {c : Config}

@[simp] theorem Mach.get_setOverflow (m : Mach c) (q : RegRef c) (b : Bool) : (m.setOverflow b).get q = m.get q := by
  cases q <;> rfl

/-- What a register write and an overwritten Overflow make of the registers and the halt flags (40_alu R107, R108). -/
theorem Mach.set_setOverflow_frame (m : Mach c) (r : RegRef c) (v : Word c.w) (b : Bool) :
    ((m.set r v).setOverflow b).get r = v ∧ (∀ q, q ≠ r → ((m.set r v).setOverflow b).get q = m.get q) ∧
      ((m.set r v).setOverflow b).fatal = m.fatal ∧ ((m.set r v).setOverflow b).terminated = m.terminated := by
  refine ⟨?_, fun q hq => ?_, m.set_fatal r v, m.set_terminated r v⟩
  · rw [Mach.get_setOverflow, Mach.get_set_same]
  · rw [Mach.get_setOverflow, Mach.get_set_other m v hq]

/-- Settles O3: both operations are a register write with Overflow overwritten. -/
theorem registerAddAndSubtractWriteOverflow : Obligations.RegisterAddAndSubtractWriteOverflow := by
  intro c m r v
  obtain ⟨hsum, haddKeeps, haddHalt⟩ := m.set_setOverflow_frame r (addW (m.get r) v).1 (addW (m.get r) v).2
  obtain ⟨hdiff, hsubKeeps, hsubHalt⟩ := m.set_setOverflow_frame r (subW (m.get r) v).1 (subW (m.get r) v).2
  exact ⟨⟨hsum, rfl, rfl, haddKeeps, haddHalt⟩, ⟨hdiff, rfl, rfl, hsubKeeps, hsubHalt⟩⟩

end Sys2Proof.Machine
end

section
/-! How every handler that commits ends: its own writes, then a commit or a jump, which may fault (40_alu R111 to R116),
and the statements about the two faults of a commit. -/

namespace Sys2Proof.Machine

variable {c : Config}

/-! ## The faults of a commit and of a jump -/

/-- What a fault in the Counter step or the IP step leaves: Counter and IP as far as they came, Overflow from the carry,
and the halt (40_alu R113). -/
def Mach.faulted (m : Mach c) (counter ip : Word c.w) (cause : FatalCause) : Mach c :=
  Mach.raiseFatal { m with counter := counter, ip := ip, overflow := true } cause

/-- A commit faults in one of its two steps or completes (40_alu R112, R113). -/
theorem Mach.commit_cases (m : Mach c) (n : Nat) :
    (∃ counter ip cause, m.commit n = m.faulted counter ip cause) ∨ m.commit n = m.committed n := by
  rw [Mach.commit_eq, addW_sum, addW_sum]
  split
  · exact .inl ⟨_, _, _, rfl⟩
  · split
    · exact .inl ⟨_, _, _, rfl⟩
    · exact .inr rfl

/-- A jump faults in its Counter step or completes (46_compare_branch R210). -/
theorem Mach.jumpTo_cases (m : Mach c) (x : Word c.w) :
    (∃ counter ip cause, m.jumpTo x = m.faulted counter ip cause) ∨ m.jumpTo x = m.jumped x := by
  rw [Mach.jumpTo_eq, addW_sum]
  split
  · exact .inl ⟨_, _, _, rfl⟩
  · exact .inr rfl

/-- A word has at least 16 values (00_scope R8). -/
theorem sixteen_le_two_pow_width (c : Config) : 16 ≤ 2 ^ c.w :=
  Nat.pow_le_pow_right (n := 2) (by decide) c.wide

theorem toNat_oneWord (c : Config) : (oneWord c.w).toNat = 1 :=
  toNat_fromValue (Nat.lt_of_lt_of_le (by decide) (sixteen_le_two_pow_width c))

/-- A word that an increment of 1 carries out of W bits. -/
theorem addW_one_of_full {a : Word c.w} (h : a.toNat + 1 = 2 ^ c.w) : addW a (oneWord c.w) = (0, true) := by
  have hsum : a + oneWord c.w = 0 := BitVec.eq_of_toNat_eq (by simp [BitVec.toNat_add, h])
  exact Prod.ext ((addW_sum a _).trans hsum) (by simp only [addW_carry, toNat_oneWord, h, Nat.le_refl, decide_true])

theorem Mach.commit_of_counterFull {m : Mach c} (h : m.counter.toNat + 1 = 2 ^ c.w) (n : Nat) :
    m.commit n = m.faulted 0 m.ip .counterOverflow := by
  rw [Mach.commit_eq, addW_one_of_full h, if_pos rfl]
  rfl

theorem Mach.jumpTo_of_counterFull {m : Mach c} (h : m.counter.toNat + 1 = 2 ^ c.w) (x : Word c.w) :
    m.jumpTo x = m.faulted 0 m.ip .counterOverflow := by
  rw [Mach.jumpTo_eq, addW_one_of_full h, if_pos rfl]
  rfl

theorem Mach.commit_of_ipCarry {m : Mach c} {n : Nat} (hc : m.counter.toNat + 1 < 2 ^ c.w) (hn : n < 2 ^ c.w)
    (h : 2 ^ c.w ≤ m.ip.toNat + n) :
    m.commit n = m.faulted (m.counter + oneWord c.w) (m.ip + fromValue c.w n) .ipOverflow := by
  have hcounter : (addW m.counter (oneWord c.w)).2 = false := by
    rw [addW_carry, toNat_oneWord, decide_eq_false (Nat.not_le.2 hc)]
  have hip : (addW m.ip (fromValue c.w n)).2 = true := by
    rw [addW_carry, toNat_fromValue hn, decide_eq_true h]
  rw [Mach.commit_eq, if_neg (by simp [hcounter]), if_pos hip, addW_sum, addW_sum]
  rfl

/-! ## How a handler ends -/

/-- Only JMP, and JZ with Zero, jump (46_compare_branch R210, R212). -/
theorem Mach.not_jumps {m : Mach c} {i : Instr} (hjmp : ∀ x, i ≠ .jmp x) (hjz : ∀ x, i ≠ .jz x) : ¬ m.jumps i := by
  rintro ⟨x, h | ⟨h, -⟩⟩
  · exact hjmp x h
  · exact hjz x h

/-- Reading a general register back after a write of it. -/
theorem Mach.getElem_set_cr (m : Mach c) {x : Nat} (hx : x < c.cnCount) (v : Word c.w) :
    (m.set (.cr ⟨x, hx⟩) v).cr[x] = v :=
  Vector.getElem_set_self hx

/-- `u` is `m` with the writes of the handler of `i`, its commit or jump still to come: of the registers a commit works
on, the pipeline state, RAM, Fatal, the ghost record and the reserved and unused bits it wrote none, and on the buses it
put a write or nothing. -/
structure Mach.Writes (m u : Mach c) (i : Instr) : Prop where
  wrote : m.handlerWrote u i
  counter : u.counter = m.counter := by rfl
  ip : u.ip = m.ip := by rfl
  pipelineState : u.pipelineState = m.pipelineState := by rfl
  ram : u.ram = m.ram := by rfl
  fatal : u.fatal = m.fatal := by rfl
  ghostCause : u.ghostCause = m.ghostCause := by rfl
  reserved : u.systemReserved = m.systemReserved ∧ u.flagsReserved = m.flagsReserved ∧ u.unused = m.unused := by
    exact ⟨rfl, rfl, rfl⟩
  request : u.en = m.en ∨ u.wr = true := by exact .inl rfl

/-- How the handler of `i`, run in `m`, ends where it commits or jumps: by the fault of a bad register index, or, past
its own writes, in a commit or a jump. -/
inductive Mach.Ends (m : Mach c) (i : Instr) : Mach c → Prop where
  | badIndex (x : Nat) (hx : x ∈ registersOf i) (h : ¬ x < c.cnCount) : m.Ends i (m.raiseFatal .registerIndex)
  | commit (u : Mach c) (hw : m.Writes u i) (hj : ¬ m.jumps i := by exact Mach.not_jumps nofun nofun) :
      m.Ends i (u.commit i.length)
  | jump (u : Mach c) (a : Word c.w) (hw : m.Writes u i) (hj : m.jumps i) : m.Ends i (u.jumpTo a)

section Ends

variable {m : Mach c} {i : Instr}

theorem Mach.Ends.withIndex {x : Nat} {k : Fin c.cnCount → Mach c} (hx : x ∈ registersOf i)
    (h : ∀ hx : x < c.cnCount, m.Ends i (k ⟨x, hx⟩)) : m.Ends i (m.withIndex x k) := by
  by_cases hin : x < c.cnCount
  · rw [Mach.withIndex_inside m hin]
    exact h hin
  · rw [Mach.withIndex_beyond m hin]
    exact .badIndex x hx hin

theorem Mach.Ends.readCR {x : Nat} {k : Word c.w → Mach c} (hx : x ∈ registersOf i)
    (h : ∀ _ : x < c.cnCount, m.Ends i (k m.cr[x])) : m.Ends i (m.readCR x k) :=
  .withIndex hx h

theorem Mach.Ends.readCR2 {x y : Nat} {k : Word c.w → Word c.w → Mach c}
    (h : ∀ (_ : x < c.cnCount) (_ : y < c.cnCount), m.Ends i (k m.cr[x] m.cr[y]))
    (hx : x ∈ registersOf i := by exact List.mem_cons_self)
    (hy : y ∈ registersOf i := by exact List.mem_cons_of_mem _ List.mem_cons_self) :
    m.Ends i (m.readCR2 x y k) :=
  .readCR hx fun hx => .readCR hy fun hy => h hx hy

end Ends

/-- Every handler that commits or jumps in this state ends in one of the three ways (41_pipeline R137). -/
theorem exec_ends (m : Mach c) (i : Instr) (h : m.commits i) :
    ∃ t : Mach c, exec i ⟨c, m⟩ = .next ⟨c, t⟩ ∧ m.Ends i t := by
  cases i with
  | noop => exact ⟨_, rfl, .commit m { wrote := trivial }⟩
  | rst => exact ⟨_, rfl, .commit m.setTerminated { wrote := rfl }⟩
  | clr x =>
    exact ⟨_, rfl, .withIndex List.mem_cons_self fun hx =>
      .commit (m.set (.cr ⟨x, hx⟩) 0) { wrote := fun _ => m.getElem_set_cr hx _ }⟩
  | inc x =>
    exact ⟨_, rfl, .withIndex List.mem_cons_self fun hx => .commit (m.addToReg (.cr ⟨x, hx⟩) (oneWord c.w)).1
      { wrote := fun _ => (m.getElem_set_cr hx _).trans (addW_sum _ _) }⟩
  | dec x =>
    exact ⟨_, rfl, .withIndex List.mem_cons_self fun hx => .commit (m.subFromReg (.cr ⟨x, hx⟩) (oneWord c.w)).1
      { wrote := fun _ => (m.getElem_set_cr hx _).trans (subW_difference _ _) }⟩
  | mov x y =>
    exact ⟨_, rfl, .readCR2 fun _ _ => .withIndex List.mem_cons_self fun hx =>
      .commit (m.set (.cr ⟨x, hx⟩) m.cr[y]) { wrote := fun _ _ => m.getElem_set_cr hx _ }⟩
  | clra => exact ⟨_, rfl, .commit (m.set .ar 0) { wrote := rfl }⟩
  | inca => exact ⟨_, rfl, .commit (m.addToReg .ar (oneWord c.w)).1 { wrote := addW_sum _ _ }⟩
  | deca => exact ⟨_, rfl, .commit (m.subFromReg .ar (oneWord c.w)).1 { wrote := subW_difference _ _ }⟩
  | adda x =>
    exact ⟨_, rfl, .readCR List.mem_cons_self fun _ =>
      .commit (m.addToReg .ar m.cr[x]).1 { wrote := fun _ => addW_sum _ _ }⟩
  | suba x =>
    exact ⟨_, rfl, .readCR List.mem_cons_self fun _ =>
      .commit (m.subFromReg .ar m.cr[x]).1 { wrote := fun _ => subW_difference _ _ }⟩
  | sum x y =>
    exact ⟨_, rfl, .readCR2 fun _ _ =>
      .commit ((m.set .ar m.cr[x]).addToReg .ar m.cr[y]).1 { wrote := fun _ _ => addW_sum _ _ }⟩
  | sub x y =>
    exact ⟨_, rfl, .readCR2 fun _ _ =>
      .commit ((m.set .ar m.cr[x]).subFromReg .ar m.cr[y]).1 { wrote := fun _ _ => subW_difference _ _ }⟩
  | st x y =>
    exact ⟨_, rfl, .readCR2 fun _ _ =>
      .commit (m.requestWrite m.cr[y] m.cr[x]) { wrote := fun _ _ => ⟨rfl, rfl, rfl, rfl⟩, request := .inr rfl }⟩
  | cmp x y => exact ⟨_, rfl, .readCR2 fun _ _ => .commit (m.setZero m.cr[x] m.cr[y]) { wrote := fun _ _ => rfl }⟩
  | jmp x => exact ⟨_, rfl, .jump m _ { wrote := trivial } ⟨x, .inl rfl⟩⟩
  | jz x =>
    refine ⟨_, exec_jz m x, ?_⟩
    split
    · next hz => exact .jump m _ { wrote := trivial } ⟨x, .inr ⟨rfl, hz⟩⟩
    · next hz => exact .commit m { wrote := trivial } (by simp [Mach.jumps, hz])
  | ld x y =>
    refine ⟨_, exec_ld_phase2 m x y (h x y rfl), ?_⟩
    have hmem : y ∈ [x, y] := List.mem_cons_of_mem x List.mem_cons_self
    exact .withIndex (k := fun j => (m.set (.cr j) m.data).commit 3) hmem fun hy =>
      .commit (m.set (.cr ⟨y, hy⟩) m.data) { wrote := fun _ => m.getElem_set_cr hy _ }

/-- `exec_ends`, of a next state that is given. -/
theorem ends_of_exec {m t : Mach c} {i : Instr} (hc : m.commits i) (h : exec i ⟨c, m⟩ = .next ⟨c, t⟩) : m.Ends i t := by
  obtain ⟨u, hu, hends⟩ := exec_ends m i hc
  cases hu.symm.trans h
  exact hends

/-- What a handler wrote stays where its commit or jump faults (40_alu R113). -/
theorem Mach.handlerWrote_faulted {m u : Mach c} {i : Instr} (h : m.handlerWrote u i) (counter ip : Word c.w)
    (cause : FatalCause) : m.handlerWrote (u.faulted counter ip cause) i := by
  cases i
  case rst => rfl
  all_goals exact h

/-- An instruction has at most three words (30_encoding R80). -/
theorem length_le_three (i : Instr) : i.length ≤ 3 := by
  obtain ⟨row, hl, hlen, -⟩ := lookup_opcode i
  have := lookup_arity_le hl
  simp only [Instr.length, Instr.arity]
  omega

/-! ## The statements -/

/-- Settles O50: the Counter step comes first in a commit and in a jump. -/
theorem fullCounterFaultsEveryCommit : Obligations.FullCounterFaultsEveryCommit := by
  intro c m i hfull hcommits hregs
  obtain ⟨t, ht, hends⟩ := exec_ends m i hcommits
  suffices hfault : ∃ u, m.Writes u i ∧ t = u.faulted 0 u.ip .counterOverflow by
    obtain ⟨u, hw, rfl⟩ := hfault
    exact ⟨_, ht, rfl, rfl, rfl, rfl, hw.ip, hw.pipelineState, Mach.handlerWrote_faulted hw.wrote _ _ _⟩
  cases hends with
  | badIndex x hx h => exact absurd (hregs x hx) h
  | commit u hw hj => exact ⟨u, hw, Mach.commit_of_counterFull (hw.counter ▸ hfull) _⟩
  | jump u a hw hj => exact ⟨u, hw, Mach.jumpTo_of_counterFull (hw.counter ▸ hfull) a⟩

/-- Settles O51: the Counter step passes, and the IP step faults. -/
theorem ipCarryFaultsEveryCommit : Obligations.IpCarryFaultsEveryCommit := by
  intro c m i hcounter hcarry hcommits hnojump hregs
  obtain ⟨t, ht, hends⟩ := exec_ends m i hcommits
  cases hends with
  | badIndex x hx h => exact absurd (hregs x hx) h
  | jump u a hw hj => exact absurd hj hnojump
  | commit u hw hj =>
    have hlen : i.length < 2 ^ c.w := by
      have := length_le_three i
      have := sixteen_le_two_pow_width c
      omega
    have hin := m.ip.isLt
    rw [Mach.commit_of_ipCarry (hw.counter ▸ hcounter) hlen (hw.ip ▸ hcarry), hw.counter, hw.ip] at ht
    refine ⟨_, ht, rfl, rfl, rfl, ?_, ?_, hw.pipelineState, Mach.handlerWrote_faulted hw.wrote _ _ _⟩
    · calc (m.counter + oneWord c.w).toNat
          = (m.counter.toNat + 1) % 2 ^ c.w := by rw [BitVec.toNat_add, toNat_oneWord]
        _ = m.counter.toNat + 1 := Nat.mod_eq_of_lt hcounter
    · calc (m.ip + fromValue c.w i.length).toNat
          = (m.ip.toNat + i.length) % 2 ^ c.w := by rw [BitVec.toNat_add, toNat_fromValue hlen]
        _ = m.ip.toNat + i.length - 2 ^ c.w := by rw [Nat.mod_eq_sub_mod hcarry, Nat.mod_eq_of_lt (by omega)]

end Sys2Proof.Machine
end

section
/-! The invariant: what each pipeline state leaves meets it again (40_alu R116, 41_pipeline R139, R147). -/

namespace Sys2Proof.Machine

variable {c : Config}

/-- The clauses of the invariant that speak of no pipeline state. -/
structure Mach.Shared (m : Mach c) : Prop where
  ramCanonical : Ram.wf c.ramWords m.ram = true
  fatalHalts : m.fatal = true → m.terminated = true
  ghostRecordsFatal : m.ghostCause.isSome = m.fatal
  overflowOnlyOnFault : m.overflow = true → m.fatal = true
  reservedZero : m.systemReserved = 0 ∧ m.flagsReserved = 0 ∧ m.unused = 0

section Parts

variable {m u t : Mach c} {i : Instr} {p : PipelineState}

/-- A running machine has no fault. -/
theorem Mach.Shared.fatal_eq_false (h : m.Shared) (hm : m.terminated = false) : m.fatal = false := by
  cases hf : m.fatal with
  | false => rfl
  | true => exact (h.fatalHalts hf).symm.trans hm

theorem Mach.Shared.reservedZero_of_eq (h : m.Shared)
    (hkept : u.systemReserved = m.systemReserved ∧ u.flagsReserved = m.flagsReserved ∧ u.unused = m.unused) :
    u.systemReserved = 0 ∧ u.flagsReserved = 0 ∧ u.unused = 0 := by
  obtain ⟨hsystem, hflags, hunused⟩ := hkept
  rw [hsystem, hflags, hunused]
  exact h.reservedZero

/-! ## A fault -/

/-- A fault outside Fetch meets the invariant, whatever `u` has in Overflow, the scratch registers and the buses: its
halt leaves the clauses of the pipeline states nothing to say. -/
theorem Mach.Shared.inv_raiseFatal (h : m.Shared) (hp : m.pipelineState = p)
    (hlegal : p ≠ .fetch ∧ p ≠ .invalid6 ∧ p ≠ .invalid7) {cause : FatalCause} (hram : u.ram = m.ram := by rfl)
    (hkept : u.pipelineState = m.pipelineState := by rfl)
    (hreserved : u.systemReserved = m.systemReserved ∧ u.flagsReserved = m.flagsReserved ∧ u.unused = m.unused := by
      exact ⟨rfl, rfl, rfl⟩) : (u.raiseFatal cause).Inv where
  ramCanonical := hram ▸ h.ramCanonical
  fatalHalts := fun _ => rfl
  ghostRecordsFatal := rfl
  overflowOnlyOnFault := fun _ => rfl
  legalState := (hkept.trans hp) ▸ hlegal.2
  reservedZero := h.reservedZero_of_eq hreserved
  inDecode := fun _ => nofun
  inRead1 := fun _ => nofun
  inRead2 := fun _ => nofun
  inExecute1 := fun _ => nofun
  inExecute2 := fun _ => nofun
  inFetch := fun hfetch => absurd ((hkept.trans hp).symm.trans hfetch) hlegal.1

/-! ## The end of a handler -/

section Writes

variable (hw : m.Writes u i) (h : m.Shared)
include hw h

/-- A commit or jump that faults. -/
theorem Mach.Writes.inv_faulted (hp : m.pipelineState = p) (hlegal : p ≠ .fetch ∧ p ≠ .invalid6 ∧ p ≠ .invalid7)
    {counter ip : Word c.w} {cause : FatalCause} : (u.faulted counter ip cause).Inv :=
  h.inv_raiseFatal hp hlegal hw.ram hw.pipelineState hw.reserved

/-- A commit or jump that completes: Overflow is 0, and in Fetch only the handler's own write can be pending. -/
theorem Mach.Writes.inv_completed (hf : m.fatal = false) (hen : m.en = false) {counter ip : Word c.w} :
    Mach.Inv { u with counter := counter, ip := ip, overflow := false, pipelineState := .fetch } where
  ramCanonical := hw.ram ▸ h.ramCanonical
  fatalHalts := fun hfatal => by cases hfatal.symm.trans (hw.fatal.trans hf)
  ghostRecordsFatal := by rw [hw.ghostCause, hw.fatal, h.ghostRecordsFatal]
  overflowOnlyOnFault := nofun
  legalState := ⟨nofun, nofun⟩
  reservedZero := h.reservedZero_of_eq hw.reserved
  inDecode := nofun
  inRead1 := nofun
  inRead2 := nofun
  inExecute1 := nofun
  inExecute2 := nofun
  inFetch := fun _ hrequest => hw.request.resolve_left fun hkept => by cases hrequest.symm.trans (hkept.trans hen)

end Writes

/-- However a handler that commits or jumps ends. -/
theorem Mach.Ends.inv (hends : m.Ends i t) (h : m.Shared) (hf : m.fatal = false) (hen : m.en = false)
    (hp : m.pipelineState = p) (hlegal : p ≠ .fetch ∧ p ≠ .invalid6 ∧ p ≠ .invalid7) : t.Inv := by
  cases hends with
  | badIndex x hx hbeyond => exact h.inv_raiseFatal hp hlegal
  | commit u hw =>
    obtain ⟨_, _, _, hfault⟩ | hdone := u.commit_cases i.length
    · exact hfault ▸ hw.inv_faulted h hp hlegal
    · exact hdone ▸ hw.inv_completed h hf hen
  | jump u a hw =>
    obtain ⟨_, _, _, hfault⟩ | hdone := u.jumpTo_cases a
    · exact hfault ▸ hw.inv_faulted h hp hlegal
    · exact hdone ▸ hw.inv_completed h hf hen

/-- LD's first phase waits for its read in Execute2, or faults on its index (45_load_store R200). -/
theorem Mach.ldPhase1_inv (h : m.Shared) (hp : m.pipelineState = .execute1) (hop : m.commandCode.toNat = ldOpcode)
    (x : Nat) : (m.ldPhase1 x).Inv := by
  by_cases hx : x < c.cnCount
  · rw [Mach.ldPhase1_inside m hx]
    exact { h with
      legalState := ⟨nofun, nofun⟩, inDecode := nofun, inRead1 := nofun, inRead2 := nofun, inExecute1 := nofun
      inExecute2 := fun _ _ => ⟨hop, rfl, rfl⟩, inFetch := nofun }
  · rw [Mach.ldPhase1, Mach.readCR_beyond m hx]
    exact h.inv_raiseFatal hp (by decide)

/-- Execute1: LD starts its first phase, every other handler ends, and scratch registers that hold no instruction fault
(41_pipeline R137). -/
theorem execute1_inv (h : m.Shared) (hm : m.terminated = false) (hen : m.en = false) (hp : m.pipelineState = .execute1)
    (hs : pipelineStep ⟨c, m⟩ = .next ⟨c, t⟩) : t.Inv := by
  cases hd : decode m.scratch with
  | error e =>
    cases hs.symm.trans (pipelineStep_execute1_unknown hp hd)
    exact h.inv_raiseFatal hp (by decide)
  | ok r =>
    obtain ⟨i, rest⟩ := r
    rw [pipelineStep_execute1 hp hd] at hs
    by_cases hld : ∃ x y, i = .ld x y
    · obtain ⟨x, y, rfl⟩ := hld
      cases hs.symm.trans (exec_ld_phase1 m x y (by simp [hp]))
      exact Mach.ldPhase1_inv h hp (decode_opcode hd).symm x
    · have hcommits : m.commits i := fun x y hi => absurd ⟨x, y, hi⟩ hld
      exact (ends_of_exec hcommits hs).inv h (h.fatal_eq_false hm) hen hp (by decide)

/-- Execute2: LD's second phase ends (41_pipeline R138). -/
theorem execute2_inv (h : m.Shared) (hm : m.terminated = false) (hen : m.en = false) (hp : m.pipelineState = .execute2)
    (hop : m.commandCode.toNat = ldOpcode) (hs : pipelineStep ⟨c, m⟩ = .next ⟨c, t⟩) : t.Inv := by
  rw [pipelineStep_execute2 hp hop] at hs
  exact (ends_of_exec (fun _ _ _ => hp) hs).inv h (h.fatal_eq_false hm) hen hp (by decide)

/-! ## The fetch states -/

/-- A machine that comes to Execute1 with nothing pending. -/
theorem Mach.Shared.inv_execute1 (h : m.Shared) (hen : m.en = false)
    (hd : m.decodedAs fun n => (n < 1 → m.arg1 = 0) ∧ (n < 2 → m.arg2 = 0)) :
    Mach.Inv { m with pipelineState := .execute1 } :=
  { h with
    legalState := ⟨nofun, nofun⟩, inDecode := nofun, inRead1 := nofun, inRead2 := nofun
    inExecute1 := fun _ _ => ⟨hd, hen⟩, inExecute2 := nofun, inFetch := nofun }

/-- Fetch clears the scratch registers and requests the opcode word (41_pipeline R133). -/
theorem Mach.fetchStep_inv (h : m.Shared) : m.fetchStep.Inv :=
  { h with
    legalState := ⟨nofun, nofun⟩, inDecode := fun _ _ => ⟨rfl, rfl, rfl, rfl, rfl, rfl, rfl⟩, inRead1 := nofun
    inRead2 := nofun, inExecute1 := nofun, inExecute2 := nofun, inFetch := nofun }

/-- Decode faults, goes to Execute1 with no argument word read, or requests the first one (41_pipeline R134). -/
theorem Mach.decodeStep_inv (h : m.Shared) (hp : m.pipelineState = .decode) (hen : m.en = false) (h1 : m.arg1 = 0)
    (h2 : m.arg2 = 0) : m.decodeStep.Inv := by
  cases hl : lookup m.data.toNat with
  | none =>
    rw [Mach.decodeStep_unknown hl]
    exact h.inv_raiseFatal hp (by decide)
  | some row =>
    rw [Mach.decodeStep_known hl]
    split
    · exact Mach.Shared.inv_execute1 (m := { m with commandCode := m.data }) { h with } hen
        ⟨row, hl, fun _ => h1, fun _ => h2⟩
    · next harity =>
      rw [Mach.argAddress_eq, addW_sum]
      split
      · exact h.inv_raiseFatal hp (by decide)
      · exact { h with
          legalState := ⟨nofun, nofun⟩, inDecode := nofun
          inRead1 := fun _ _ => ⟨⟨row, hl, harity, rfl⟩, h1, h2, rfl, rfl, rfl⟩
          inRead2 := nofun, inExecute1 := nofun, inExecute2 := nofun, inFetch := nofun }

/-- Read1 consumes DATA, and goes on by ArgumentMode (41_pipeline R135). -/
theorem Mach.read1Step_eq (m : Mach c) :
    m.read1Step =
      if m.argumentMode then
        Mach.argAddress { m with arg1 := m.data } 2 fun a =>
          { m with arg1 := m.data, en := true, wr := false, addr := a, pipelineState := .read2 }
      else { m with arg1 := m.data, pipelineState := .execute1 } := rfl

/-- Read1 faults or requests the second argument word, or goes to Execute1, by the arity that ArgumentMode records
(41_pipeline R135). -/
theorem Mach.read1Step_inv (h : m.Shared) (hp : m.pipelineState = .read1) (hen : m.en = false)
    (hd : m.decodedAs fun n => n ≠ 0 ∧ m.argumentMode = decide (n = 2)) (h2 : m.arg2 = 0) : m.read1Step.Inv := by
  obtain ⟨row, hl, hpos, hmode⟩ := hd
  rw [Mach.read1Step_eq]
  split
  · next hargs =>
    rw [Mach.argAddress_eq, addW_sum]
    split
    · exact h.inv_raiseFatal hp (by decide)
    · exact { h with
        legalState := ⟨nofun, nofun⟩, inDecode := nofun, inRead1 := nofun
        inRead2 := fun _ _ => ⟨⟨row, hl, of_decide_eq_true (hmode.symm.trans hargs)⟩, hargs, h2, rfl, rfl, rfl⟩
        inExecute1 := nofun, inExecute2 := nofun, inFetch := nofun }
  · exact Mach.Shared.inv_execute1 (m := { m with arg1 := m.data }) { h with } hen
      ⟨row, hl, fun hzero => by omega, fun _ => h2⟩

/-- Read2 goes to Execute1 with both argument words (41_pipeline R136). -/
theorem Mach.read2Step_inv (h : m.Shared) (hen : m.en = false) (hd : m.decodedAs fun n => n = 2) : m.read2Step.Inv := by
  obtain ⟨row, hl, htwo⟩ := hd
  exact Mach.Shared.inv_execute1 (m := { m with arg2 := m.data }) { h with } hen
    ⟨row, hl, fun _ => by omega, fun _ => by omega⟩

/-! ## The step -/

/-- Every pipeline state of a running machine that meets the invariant, after any answer of the RAM half and with EN
cleared. -/
theorem pipelineStep_inv {ram : Ram c.w} {data : Word c.w} (h : m.Inv) (hm : m.terminated = false)
    (hram : Ram.wf c.ramWords ram = true)
    (hs : pipelineStep ⟨c, { m with ram := ram, data := data, en := false }⟩ = .next ⟨c, t⟩) : t.Inv := by
  have hshared : Mach.Shared { m with ram := ram, data := data, en := false } := { h with ramCanonical := hram }
  cases hp : m.pipelineState with
  | fetch =>
    cases hs.symm.trans (pipelineStep_fetch hp)
    exact Mach.fetchStep_inv hshared
  | decode =>
    obtain ⟨-, h1, h2, -⟩ := h.inDecode hp hm
    cases hs.symm.trans (pipelineStep_decode hp)
    exact Mach.decodeStep_inv hshared hp rfl h1 h2
  | read1 =>
    obtain ⟨hd, -, h2, -⟩ := h.inRead1 hp hm
    cases hs.symm.trans (pipelineStep_read1 hp)
    exact Mach.read1Step_inv hshared hp rfl hd h2
  | read2 =>
    obtain ⟨hd, -⟩ := h.inRead2 hp hm
    cases hs.symm.trans (pipelineStep_read2 hp)
    exact Mach.read2Step_inv hshared rfl hd
  | execute1 => exact execute1_inv hshared hm rfl hp hs
  | execute2 =>
    obtain ⟨hop, -⟩ := h.inExecute2 hp hm
    exact execute2_inv hshared hm rfl hp hop hs
  | invalid6 => exact absurd hp h.legalState.1
  | invalid7 => exact absurd hp h.legalState.2

end Parts

/-- Settles O59, by the three cases of a step. -/
theorem stepKeepsTheInvariant : Obligations.StepKeepsTheInvariant := by
  intro c m t h hs
  obtain ⟨-, he⟩ | ⟨-, -, he⟩ | ⟨u, v, hm, hr, hp, he⟩ := step_cases m <;> cases he.symm.trans hs
  · exact h
  · rw [Mach.serviceRequest_some hr] at hp
    exact pipelineStep_inv h hm (Mach.serviceRequest_wf hr h.ramCanonical) hp

end Sys2Proof.Machine
end

section
/-! The statements of 41_pipeline: the strobes, what each pipeline state leaves, and the ticks that an instruction takes. -/

namespace Sys2Proof.Machine

variable {c : Config}

/-! ## The strobes and the runs -/

/-- Everything a paired tick and a step can do: nothing on a halted machine, the same next state, or the same host error
(41_pipeline R142). -/
theorem tick_step_cases (s : State) :
    (s.halted ∧ tick s = .next (s, false) ∧ step s = .next s) ∨
    (∃ t, ¬ s.halted ∧ tick s = .next (t, true) ∧ step s = .next t) ∨
    (∃ f, ¬ s.halted ∧ tick s = .fault f ∧ step s = .fault f) := by
  obtain ⟨c, m⟩ := s
  obtain ⟨hm, hstep⟩ | ⟨hm, hr, hstep⟩ | ⟨t, u, hm, hr, hp, hstep⟩ := step_cases m
  · exact .inl ⟨hm, tick_halted hm, hstep⟩
  · exact .inr (.inr ⟨_, by simp [State.halted, hm], tick_hostError hm hr, hstep⟩)
  · have ht : t.terminated = false := by rwa [Mach.serviceRequest_some hr]
    obtain ⟨v, hv, hcpu⟩ := cpuTick_running t ht
    cases hv.symm.trans hp
    exact .inr (.inl ⟨_, by simp [State.halted, hm], (tick_serviced hm hr).trans hcpu, hstep⟩)

/-- No number of steps changes a halted machine (70_reset R259). -/
theorem run_halted {s : State} (h : s.halted) (n : Nat) : run n s = .next s := by
  induction n with
  | zero => rfl
  | succ n ih => exact (run_succ n (step_halted _ h)).trans ih

/-- A repetition on a halted machine ends at its first tick (41_pipeline R143). -/
theorem tickRepeat_halted {s : State} (h : s.halted) (n : Nat) : tickRepeat (n + 1) s = .next (s, false) := by
  have htick : tick s = .next (s, false) := tick_halted h
  simp only [tickRepeat, htick]

/-- A repetition goes on after a tick that reports true (41_pipeline R143). -/
theorem tickRepeat_succ {s t : State} (n : Nat) (h : tick s = .next (t, true)) :
    tickRepeat (n + 1) s = tickRepeat n t := by
  simp only [tickRepeat, h]

/-- A repetition leaves the state that as many steps leave (41_pipeline R143). -/
theorem tickRepeat_next_iff {n : Nat} {s t : State} : (∃ b, tickRepeat n s = .next (t, b)) ↔ run n s = .next t := by
  induction n generalizing s with
  | zero => simp [tickRepeat, run]
  | succ n ih =>
    obtain ⟨hs, -, -⟩ | ⟨u, -, htick, hstep⟩ | ⟨f, -, htick, hstep⟩ := tick_step_cases s
    · simp [tickRepeat_halted hs, run_halted hs]
    · rw [tickRepeat_succ n htick, run_succ n hstep]
      exact ih
    · simp [tickRepeat, run, htick, hstep]

/-- A repetition answers false exactly when its last tick, and so some tick, found the machine halted
(41_pipeline R143). -/
theorem tickRepeat_answer {n : Nat} {s t : State} {b : Bool} (h : tickRepeat (n + 1) s = .next (t, b)) :
    b = false ↔ ∃ u, run n s = .next u ∧ u.halted := by
  induction n generalizing s with
  | zero =>
    obtain ⟨hs, -, -⟩ | ⟨u, hs, htick, -⟩ | ⟨f, -, htick, -⟩ := tick_step_cases s
    · cases (tickRepeat_halted hs 0).symm.trans h
      exact ⟨fun _ => ⟨_, rfl, hs⟩, fun _ => rfl⟩
    · cases (tickRepeat_succ 0 htick).symm.trans h
      simp [run, hs]
    · simp [tickRepeat, htick] at h
  | succ n ih =>
    obtain ⟨hs, -, -⟩ | ⟨u, -, htick, hstep⟩ | ⟨f, -, htick, -⟩ := tick_step_cases s
    · cases (tickRepeat_halted hs (n + 1)).symm.trans h
      exact ⟨fun _ => ⟨_, run_halted hs _, hs⟩, fun _ => rfl⟩
    · rw [run_succ n hstep]
      exact ih ((tickRepeat_succ (n + 1) htick).symm.trans h)
    · simp [tickRepeat, htick] at h

/-- `tick(n)` of a positive n is the repetition (41_pipeline R143). -/
theorem tickN_succ (n : Nat) (s : State) : tickN (n + 1) s = tickRepeat (n + 1) s := if_neg (Nat.succ_ne_zero n)

/-- `tick(n)` leaves the state that n steps leave (41_pipeline R143). -/
theorem tickN_next_iff {n : Nat} {s t : State} : (∃ b, tickN n s = .next (t, b)) ↔ run n s = .next t := by
  cases n with
  | zero => simp [tickN, run]
  | succ n =>
    rw [tickN_succ]
    exact tickRepeat_next_iff

/-- Settles O19, by induction on the number of steps. -/
theorem haltedMachineIsQuiescent : Obligations.HaltedMachineIsQuiescent := by
  rintro ⟨c, m⟩ hs
  have hm : m.terminated = true := hs
  refine ⟨tick_halted hm, tickRam_halted hm, cpuTick_halted hm, fun n => ⟨?_, run_halted hs n⟩⟩
  cases n with
  | zero => simp [tickN, hm]
  | succ n => exact (tickN_succ n _).trans (tickRepeat_halted hs n)

/-- Settles O27, by the two answers of the RAM half. -/
theorem pairedTickRunsTheRamHalfFirst : Obligations.PairedTickRunsTheRamHalfFirst := by
  rintro ⟨c, m⟩ hs
  have hm : m.terminated = false := by simpa [State.halted] using hs
  cases hr : m.serviceRequest with
  | none =>
    rw [tickRam_hostError hm hr, tick_hostError hm hr]
    refine ⟨fun _ _ h => ?_, fun _ h => ?_⟩ <;> cases h
    rfl
  | some u =>
    rw [tickRam_serviced hm hr, tick_serviced hm hr]
    refine ⟨fun _ _ h => ?_, fun _ h => ?_⟩ <;> cases h
    rfl

/-- Settles O28: the state by `tickN_next_iff`, the answer by `tickRepeat_answer`. -/
theorem tickNHasTheEffectOfNTicks : Obligations.TickNHasTheEffectOfNTicks :=
  fun n s => ⟨fun _ b h => tickN_next_iff.1 ⟨b, h⟩, fun _ => tickN_next_iff.2,
    fun _ _ h => tickRepeat_answer ((tickN_succ n s).symm.trans h)⟩

/-! ## What each pipeline state leaves -/

/-- What the RAM half leaves differs from the machine in RAM and DATA alone (20_memory R54). -/
theorem Mach.serviceRequest_ramData {m t : Mach c} (h : m.serviceRequest = some t) :
    ∃ ram data, t = { m with ram := ram, data := data } :=
  ⟨_, _, Mach.serviceRequest_some h⟩

/-- A CPU tick past its halt guard is its pipeline state with EN cleared (41_pipeline R131, R132). -/
theorem cpuTick_of_pipelineStep {m t : Mach c} (hm : m.terminated = false)
    (h : pipelineStep ⟨c, { m with en := false }⟩ = .next ⟨c, t⟩) : cpuTick ⟨c, m⟩ = .next (⟨c, t⟩, true) := by
  obtain ⟨u, hu, hcpu⟩ := cpuTick_running m hm
  cases hu.symm.trans h
  exact hcpu

/-- The CPU tick in Decode (41_pipeline R134). -/
theorem cpuTick_decode {m t : Mach c} (hm : m.terminated = false) (hp : m.pipelineState = .decode)
    (h : Mach.decodeStep { m with en := false } = t) : cpuTick ⟨c, m⟩ = .next (⟨c, t⟩, true) :=
  h ▸ cpuTick_of_pipelineStep hm (pipelineStep_decode hp)

/-- The CPU tick in Read1 (41_pipeline R135). -/
theorem cpuTick_read1 {m t : Mach c} (hm : m.terminated = false) (hp : m.pipelineState = .read1)
    (h : Mach.read1Step { m with en := false } = t) : cpuTick ⟨c, m⟩ = .next (⟨c, t⟩, true) :=
  h ▸ cpuTick_of_pipelineStep hm (pipelineStep_read1 hp)

/-- An argument address that a W-bit word has (41_pipeline R141). -/
theorem Mach.argAddress_inside {m : Mach c} {k : Nat} (h : m.ip.toNat + k < 2 ^ c.w) (next : Word c.w → Mach c) :
    m.argAddress k next = next (m.ip + fromValue c.w k) := by
  have hk : (fromValue c.w k).toNat = k := toNat_fromValue (by omega)
  rw [Mach.argAddress_eq, addW_sum, addW_carry, hk, decide_eq_false (Nat.not_le.2 h), if_neg Bool.false_ne_true]

/-- An argument address that carries is fatal (41_pipeline R141). -/
theorem Mach.argAddress_beyond {m : Mach c} {k : Nat} (hk : k < 2 ^ c.w) (h : 2 ^ c.w ≤ m.ip.toNat + k)
    (next : Word c.w → Mach c) : m.argAddress k next = m.raiseFatal .argAddressOverflow := by
  rw [Mach.argAddress_eq, addW_carry, toNat_fromValue hk, decide_eq_true h, if_pos rfl]

section PipelineStates

variable {m : Mach c} {row : OpcodeRow}

/-- Decode of an opcode without arguments (41_pipeline R134). -/
theorem Mach.decodeStep_noArguments (hl : lookup m.data.toNat = some row) (h0 : row.arity = 0) :
    m.decodeStep = { m with commandCode := m.data, pipelineState := .execute1 } := by
  rw [Mach.decodeStep_known hl, if_pos h0]

/-- Decode of an opcode with arguments, the first of which has an address (41_pipeline R134). -/
theorem Mach.decodeStep_arguments (hl : lookup m.data.toNat = some row) (h0 : row.arity ≠ 0)
    (hip : m.ip.toNat + 1 < 2 ^ c.w) :
    m.decodeStep = { m with
      commandCode := m.data, argumentMode := decide (row.arity = 2), en := true, wr := false
      addr := m.ip + oneWord c.w, pipelineState := .read1 } := by
  rw [Mach.decodeStep_known hl, if_neg h0]
  exact Mach.argAddress_inside (by exact hip) _

/-- Decode of an opcode with arguments, the first of which has no address (41_pipeline R134, R141). -/
theorem Mach.decodeStep_beyond (hl : lookup m.data.toNat = some row) (h0 : row.arity ≠ 0)
    (hip : 2 ^ c.w ≤ m.ip.toNat + 1) :
    m.decodeStep = Mach.raiseFatal { m with commandCode := m.data, argumentMode := decide (row.arity = 2) }
      .argAddressOverflow := by
  have := sixteen_le_two_pow_width c
  rw [Mach.decodeStep_known hl, if_neg h0]
  exact Mach.argAddress_beyond (by omega) (by exact hip) _

/-- Read1 of the only argument (41_pipeline R135). -/
theorem Mach.read1Step_last (hmode : m.argumentMode = false) :
    m.read1Step = { m with arg1 := m.data, pipelineState := .execute1 } := by
  rw [Mach.read1Step_eq, if_neg (by simp [hmode])]

/-- Read1 of the first of two arguments, the second of which has an address (41_pipeline R135). -/
theorem Mach.read1Step_more (hmode : m.argumentMode = true) (hip : m.ip.toNat + 2 < 2 ^ c.w) :
    m.read1Step = { m with
      arg1 := m.data, en := true, wr := false, addr := m.ip + fromValue c.w 2, pipelineState := .read2 } := by
  rw [Mach.read1Step_eq, if_pos hmode]
  exact Mach.argAddress_inside (by exact hip) _

/-- Read1 of the first of two arguments, the second of which has no address (41_pipeline R135, R141). -/
theorem Mach.read1Step_beyond (hmode : m.argumentMode = true) (hip : 2 ^ c.w ≤ m.ip.toNat + 2) :
    m.read1Step = Mach.raiseFatal { m with arg1 := m.data } .argAddressOverflow := by
  have := sixteen_le_two_pow_width c
  rw [Mach.read1Step_eq, if_pos hmode]
  exact Mach.argAddress_beyond (by omega) (by exact hip) _

end PipelineStates

/-- Settles O29: an IP beyond RAM is met by the RAM half of the next tick. -/
theorem fetchClearsScratchAndRequestsTheOpcode : Obligations.FetchClearsScratchAndRequestsTheOpcode := by
  intro c m hm hp
  refine ⟨_, rfl, cpuTick_of_pipelineStep hm (pipelineStep_fetch hp), fun hip => ?_⟩
  exact tick_hostError hm (Mach.serviceRequest_beyond rfl hip)

/-- Settles O30, by the arity and the carry of IP + 1. -/
theorem decodeConsumesTheOpcode : Obligations.DecodeConsumesTheOpcode := by
  intro c m row hm hp hl
  refine ⟨fun h0 => ?_, fun h0 hip => ?_, fun h0 hip => ?_⟩
  · exact cpuTick_decode hm hp (Mach.decodeStep_noArguments hl h0)
  · exact cpuTick_decode hm hp (Mach.decodeStep_arguments hl h0 hip)
  · exact cpuTick_decode hm hp (Mach.decodeStep_beyond hl h0 hip.ge)

/-- Settles O31, by ArgumentMode and the carry of IP + 2. -/
theorem read1ConsumesTheFirstArgument : Obligations.Read1ConsumesTheFirstArgument := by
  intro c m hm hp
  refine ⟨fun hmode => ?_, fun hmode hip => ?_, fun hmode hip => ?_⟩
  · exact cpuTick_read1 hm hp (Mach.read1Step_last hmode)
  · exact cpuTick_read1 hm hp (Mach.read1Step_more hmode hip)
  · exact cpuTick_read1 hm hp (Mach.read1Step_beyond hmode hip)

/-- Settles O32, by the Read2 case of the CPU tick. -/
theorem read2ConsumesTheSecondArgument : Obligations.Read2ConsumesTheSecondArgument :=
  fun _ _ hm hp => cpuTick_of_pipelineStep hm (pipelineStep_read2 hp)

/-- Settles O33, by the pipeline states that raise. -/
theorem statesNoRuleWritesAreFatal : Obligations.StatesNoRuleWritesAreFatal := by
  intro c m hm
  refine ⟨fun h => cpuTick_of_pipelineStep hm ?_, fun hp hl => cpuTick_of_pipelineStep hm ?_⟩
  · obtain hp | hp | ⟨hp, hop⟩ := h
    · exact pipelineStep_invalid (.inl hp)
    · exact pipelineStep_invalid (.inr hp)
    · exact pipelineStep_execute2_other hp hop
  · exact pipelineStep_execute1_unknown hp (decode_unknownOpcode_iff.2 hl)

/-- Settles O34: the RAM half keeps the pipeline state and the scratch registers. -/
theorem stepRunsTheDecodedInstruction : Obligations.StepRunsTheDecodedInstruction := by
  intro c m t hm hs
  obtain ⟨ram, data, rfl⟩ := Mach.serviceRequest_ramData hs
  rw [step_running m hm hs]
  constructor
  · intro i rest hp hd
    exact pipelineStep_execute1 (m := { m with ram := ram, data := data, en := false }) hp hd
  · intro hp hop
    exact pipelineStep_execute2 (m := { m with ram := ram, data := data, en := false }) hp hop

/-! ## The requests of a CPU tick -/

theorem Mach.keepsBuses_refl (m : Mach c) : m.keepsBuses m := ⟨rfl, rfl, rfl, rfl⟩

/-- `t` has the buses of `m`, or a request was issued in between, which `issuer` allows. -/
def Mach.LeavesBuses (m t : Mach c) (issuer : Prop) : Prop := m.keepsBuses t ∨ (t.en = true ∧ issuer)

section Requests

variable {m t : Mach c} {issuer : Prop}

theorem Mach.LeavesBuses.imp {other : Prop} (h : m.LeavesBuses t issuer) (hi : issuer → other) :
    m.LeavesBuses t other :=
  Or.imp_right (And.imp_right hi) h

theorem Mach.LeavesBuses.commit (n : Nat) (h : m.LeavesBuses t issuer) : m.LeavesBuses (t.commit n) issuer := by
  simpa [Mach.LeavesBuses, Mach.keepsBuses] using h

theorem Mach.LeavesBuses.jumpTo (x : Word c.w) (h : m.LeavesBuses t issuer) : m.LeavesBuses (t.jumpTo x) issuer := by
  simpa [Mach.LeavesBuses, Mach.keepsBuses] using h

theorem Mach.LeavesBuses.withIndex {i : Nat} {k : Fin c.cnCount → Mach c} (h : ∀ j, m.LeavesBuses (k j) issuer) :
    m.LeavesBuses (m.withIndex i k) issuer := by
  by_cases hi : i < c.cnCount
  · rw [Mach.withIndex_inside m hi]
    exact h _
  · rw [Mach.withIndex_beyond m hi]
    exact .inl m.keepsBuses_refl

theorem Mach.LeavesBuses.readCR2 {x y : Nat} {k : Word c.w → Word c.w → Mach c}
    (h : ∀ a b, m.LeavesBuses (k a b) issuer) : m.LeavesBuses (m.readCR2 x y k) issuer :=
  .withIndex fun _ => .withIndex fun _ => h _ _

/-- An argument address faults, or its request is issued (41_pipeline R141). -/
theorem Mach.LeavesBuses.argAddress {k : Nat} {next : Word c.w → Mach c} (ht : m.keepsBuses t)
    (h : ∀ a, m.LeavesBuses (next a) issuer) : m.LeavesBuses (t.argAddress k next) issuer := by
  rw [Mach.argAddress_eq]
  split
  · exact .inl ht
  · exact h _

/-- LD's second phase issues no request (45_load_store R201). -/
theorem Mach.ldPhase2_leavesBuses (m : Mach c) (y : Nat) : m.LeavesBuses (m.ldPhase2 y) issuer :=
  .withIndex (k := fun j => (m.set (.cr j) m.data).commit 3) fun _ => .commit 3 (.inl m.keepsBuses_refl)

end Requests

/-- Of the instructions only LD and ST issue a request (45_load_store R200, R202). -/
theorem exec_leavesBuses (m : Mach c) (i : Instr) :
    ∃ t : Mach c, exec i ⟨c, m⟩ = .next ⟨c, t⟩ ∧ m.LeavesBuses t (i.opcode ∈ [0x09, 0x0A]) := by
  have hkept := m.keepsBuses_refl
  cases i with
  | noop => exact ⟨_, rfl, .commit 1 (.inl hkept)⟩
  | rst => exact ⟨_, rfl, .commit 1 (.inl hkept)⟩
  | clr x => exact ⟨_, rfl, .withIndex fun _ => .commit 2 (.inl hkept)⟩
  | inc x => exact ⟨_, rfl, .withIndex fun _ => .commit 2 (.inl hkept)⟩
  | dec x => exact ⟨_, rfl, .withIndex fun _ => .commit 2 (.inl hkept)⟩
  | mov x y => exact ⟨_, rfl, .readCR2 fun _ _ => .withIndex fun _ => .commit 3 (.inl hkept)⟩
  | clra => exact ⟨_, rfl, .commit 1 (.inl hkept)⟩
  | inca => exact ⟨_, rfl, .commit 1 (.inl hkept)⟩
  | deca => exact ⟨_, rfl, .commit 1 (.inl hkept)⟩
  | adda x => exact ⟨_, rfl, .withIndex fun _ => .commit 2 (.inl hkept)⟩
  | suba x => exact ⟨_, rfl, .withIndex fun _ => .commit 2 (.inl hkept)⟩
  | sum x y => exact ⟨_, rfl, .readCR2 fun _ _ => .commit 3 (.inl hkept)⟩
  | sub x y => exact ⟨_, rfl, .readCR2 fun _ _ => .commit 3 (.inl hkept)⟩
  | st x y => exact ⟨_, rfl, .readCR2 fun _ _ => .commit 3 (.inr ⟨rfl, by simp [Instr.opcode]⟩)⟩
  | cmp x y => exact ⟨_, rfl, .readCR2 fun _ _ => .commit 3 (.inl hkept)⟩
  | jmp x => exact ⟨_, rfl, .jumpTo _ (.inl hkept)⟩
  | jz x =>
    refine ⟨_, exec_jz m x, ?_⟩
    split
    · exact .jumpTo _ (.inl hkept)
    · exact .commit 2 (.inl hkept)
  | ld x y =>
    by_cases hp : m.pipelineState = .execute2
    · exact ⟨_, exec_ld_phase2 m x y hp, m.ldPhase2_leavesBuses y⟩
    · exact ⟨_, exec_ld_phase1 m x y hp, .withIndex fun _ => .inr ⟨rfl, by simp [Instr.opcode]⟩⟩

/-- The pipeline states that issue a request (41_pipeline R133 to R135, 45_load_store R200, R202). -/
def Mach.mayRequest (m : Mach c) : Prop :=
  m.pipelineState ∈ [PipelineState.fetch, .decode, .read1] ∨
    (m.pipelineState = .execute1 ∧ m.commandCode.toNat ∈ [0x09, 0x0A])

/-- Decode requests its first argument word or leaves the buses alone (41_pipeline R134). -/
theorem Mach.decodeStep_leavesBuses (m : Mach c) : m.LeavesBuses m.decodeStep True := by
  cases hl : lookup m.data.toNat with
  | none =>
    rw [Mach.decodeStep_unknown hl]
    exact .inl m.keepsBuses_refl
  | some row =>
    rw [Mach.decodeStep_known hl]
    split
    · exact .inl m.keepsBuses_refl
    · exact .argAddress m.keepsBuses_refl fun _ => .inr ⟨rfl, trivial⟩

/-- Read1 requests the second argument word or leaves the buses alone (41_pipeline R135). -/
theorem Mach.read1Step_leavesBuses (m : Mach c) : m.LeavesBuses m.read1Step True := by
  rw [Mach.read1Step_eq]
  split
  · exact .argAddress m.keepsBuses_refl fun _ => .inr ⟨rfl, trivial⟩
  · exact .inl m.keepsBuses_refl

/-- Every pipeline state leaves the buses alone or issues a request, where it may. -/
theorem pipelineStep_leavesBuses (m : Mach c) :
    ∃ t : Mach c, pipelineStep ⟨c, m⟩ = .next ⟨c, t⟩ ∧ m.LeavesBuses t m.mayRequest := by
  have hkept := m.keepsBuses_refl
  cases hp : m.pipelineState with
  | fetch => exact ⟨_, pipelineStep_fetch hp, .inr ⟨rfl, .inl (by simp [hp])⟩⟩
  | decode => exact ⟨_, pipelineStep_decode hp, m.decodeStep_leavesBuses.imp fun _ => .inl (by simp [hp])⟩
  | read1 => exact ⟨_, pipelineStep_read1 hp, m.read1Step_leavesBuses.imp fun _ => .inl (by simp [hp])⟩
  | read2 => exact ⟨_, pipelineStep_read2 hp, .inl hkept⟩
  | execute1 =>
    cases hd : decode m.scratch with
    | error e => exact ⟨_, pipelineStep_execute1_unknown hp hd, .inl hkept⟩
    | ok r =>
      obtain ⟨t, ht, hb⟩ := exec_leavesBuses m r.1
      exact ⟨t, (pipelineStep_execute1 hp hd).trans ht, hb.imp fun hop => .inr ⟨hp, decode_opcode hd ▸ hop⟩⟩
  | execute2 =>
    by_cases hop : m.commandCode.toNat = ldOpcode
    · exact ⟨_, (pipelineStep_execute2 hp hop).trans (exec_ld_phase2 m _ _ hp), m.ldPhase2_leavesBuses _⟩
    · exact ⟨_, pipelineStep_execute2_other hp hop, .inl hkept⟩
  | invalid6 => exact ⟨_, pipelineStep_invalid (.inl hp), .inl hkept⟩
  | invalid7 => exact ⟨_, pipelineStep_invalid (.inr hp), .inl hkept⟩

/-- Settles O26: past its guard a CPU tick is its pipeline state with EN cleared, which sets EN only by a request. -/
theorem cpuTickClearsEnableFirst : Obligations.CpuTickClearsEnableFirst := by
  intro c m hm
  obtain ⟨u, hu, hbuses⟩ := pipelineStep_leavesBuses { m with en := false }
  have hcpu := cpuTick_of_pipelineStep hm hu
  refine ⟨hcpu.trans (cpuTick_of_pipelineStep (m := { m with en := false }) hm hu).symm, fun t b h => ?_⟩
  cases hcpu.symm.trans h
  obtain ⟨hen, hwr, haddr, hdata⟩ | ⟨hen, hmay⟩ := hbuses
  · exact ⟨fun hset => (Bool.false_ne_true (hen.symm.trans hset)).elim, fun _ => ⟨hwr, haddr, hdata⟩⟩
  · exact ⟨fun _ => hmay, fun hclear => (Bool.false_ne_true (hclear.symm.trans hen)).elim⟩

/-! ## The ticks of a fetch -/

/-- A run of one more step is the run, then the step (70_reset R260). -/
theorem run_succ_last {n : Nat} {s t : State} (h : run n s = .next t) : run (n + 1) s = step t := by
  induction n generalizing s with
  | zero =>
    cases h
    simp only [run]
    cases step t <;> rfl
  | succ n ih =>
    rw [run] at h ⊢
    split at h
    · exact ih h
    · cases h
    · cases h

/-- `m` comes to `u` in `n` ticks, and in none of the states up to there is the pipeline in Fetch or has IP or Counter
moved (41_pipeline R149). -/
def Mach.RunsInside (m u : Mach c) (n : Nat) : Prop :=
  run n ⟨c, m⟩ = .next ⟨c, u⟩ ∧
    ∀ k v, 0 < k → k ≤ n → run k ⟨c, m⟩ = .next ⟨c, v⟩ →
      v.pipelineState ≠ .fetch ∧ v.ip = m.ip ∧ v.counter = m.counter

theorem Mach.RunsInside.refl (m : Mach c) : m.RunsInside m 0 := ⟨rfl, fun _ _ _ _ => by omega⟩

/-- One more tick that stays inside the instruction. -/
theorem Mach.RunsInside.tick {m u v : Mach c} {n : Nat} (h : m.RunsInside u n) (hs : step ⟨c, u⟩ = .next ⟨c, v⟩)
    (hp : v.pipelineState ≠ .fetch) (hip : v.ip = m.ip) (hcounter : v.counter = m.counter) :
    m.RunsInside v (n + 1) := by
  obtain ⟨hrun, hinside⟩ := h
  have hlast := (run_succ_last hrun).trans hs
  refine ⟨hlast, fun k x hk hkn hx => ?_⟩
  obtain hle | rfl := Nat.le_or_eq_of_le_succ hkn
  · exact hinside k x hk hle hx
  · cases hlast.symm.trans hx
    exact ⟨hp, hip, hcounter⟩

/-- `t` in the fetch state `p`, waiting for the word at IP + k: ArgumentMode, the opcode word and the first argument word
as the ticks before it left them, and DATA as the last of these found it (41_pipeline R133 to R135). -/
def Mach.awaiting (t : Mach c) (p : PipelineState) (mode : Bool) (opcode x : Word c.w) (k : Nat) (data : Word c.w) :
    Mach c :=
  { t with
    pipelineState := p, argumentMode := mode, commandCode := opcode, arg1 := x, arg2 := 0
    en := true, wr := false, addr := t.ip + fromValue c.w k, data := data }

/-- What a fetch leaves, by the row of its opcode (41_pipeline R133 to R136). -/
theorem Mach.fetched_eq (t : Mach c) {row : OpcodeRow} {v : Word c.w} (hl : lookup v.toNat = some row)
    (x y : Word c.w) :
    t.fetched v x y = { t with
      pipelineState := .execute1, argumentMode := decide (row.arity = 2), commandCode := v
      arg1 := if 1 ≤ row.arity then x else 0, arg2 := if row.arity = 2 then y else 0
      en := false, wr := false, addr := t.ip + fromValue c.w row.arity
      data := if row.arity = 2 then y else if row.arity = 1 then x else v } := by
  simp only [Mach.fetched, hl]

section Fetch

variable {m t : Mach c} {row : OpcodeRow} {v x y d : Word c.w} {ws : List (Word c.w)}

section Words

variable (ht : t.terminated = false) (hw : t.holds t.ip.toNat ws)
include ht hw

/-- A tick that waits for the word at IP + k is its pipeline state with that word in DATA (41_pipeline R142). -/
theorem Mach.step_awaiting {p : PipelineState} {mode : Bool} {k : Nat} (hk : ws[k]? = some v) (opcode x d : Word c.w) :
    step ⟨c, t.awaiting p mode opcode x k d⟩ =
      pipelineStep ⟨c, { t.awaiting p mode opcode x k v with en := false }⟩ := by
  obtain ⟨hlt, rfl⟩ := List.getElem?_eq_some_iff.1 hk
  obtain ⟨hwidth, hram, hwords⟩ := hw
  have haddr : (t.ip + fromValue c.w k).toNat = t.ip.toNat + k := by
    rw [BitVec.toNat_add, toNat_fromValue (by omega), Nat.mod_eq_of_lt (by omega)]
  have hinside : (t.ip + fromValue c.w k).toNat < c.ramWords := by omega
  have hserve : (t.awaiting p mode opcode x k d).serviceRequest =
      some (t.awaiting p mode opcode x k (Ram.read t.ram (t.ip + fromValue c.w k).toNat)) :=
    Mach.serviceRequest_read (m := t.awaiting p mode opcode x k d) rfl hinside rfl
  rw [step_running (t.awaiting p mode opcode x k d) ht hserve, haddr, hwords k hlt]

/-- Decode of an opcode without arguments ends the fetch (41_pipeline R134). -/
theorem Mach.step_awaiting_opcode_last (hl : lookup v.toNat = some row) (h0 : row.arity = 0) (hv : ws[0]? = some v) :
    step ⟨c, t.awaiting .decode false 0 0 0 d⟩ = .next ⟨c, t.fetched v x y⟩ := by
  rw [Mach.step_awaiting ht hw hv, pipelineStep_decode rfl, Mach.decodeStep_noArguments hl h0, Mach.fetched_eq t hl]
  simp [h0, Mach.awaiting]

/-- Decode of an opcode with arguments waits for the first one (41_pipeline R134). -/
theorem Mach.step_awaiting_opcode (hl : lookup v.toNat = some row) (h0 : row.arity ≠ 0) (hv : ws[0]? = some v)
    (hlen : 1 < ws.length) :
    step ⟨c, t.awaiting .decode false 0 0 0 d⟩ = .next ⟨c, t.awaiting .read1 (decide (row.arity = 2)) v 0 1 v⟩ := by
  have hip : t.ip.toNat + 1 < 2 ^ c.w := Nat.lt_of_lt_of_le (by omega) hw.1
  rw [Mach.step_awaiting ht hw hv, pipelineStep_decode rfl, Mach.decodeStep_arguments hl h0 ?_]
  · rfl
  · exact hip

/-- Read1 of an only argument ends the fetch (41_pipeline R135). -/
theorem Mach.step_awaiting_first_last (hl : lookup v.toNat = some row) (h1 : row.arity = 1) (hx : ws[1]? = some x) :
    step ⟨c, t.awaiting .read1 false v 0 1 d⟩ = .next ⟨c, t.fetched v x y⟩ := by
  rw [Mach.step_awaiting ht hw hx, pipelineStep_read1 rfl, Mach.read1Step_last rfl, Mach.fetched_eq t hl]
  simp [h1, Mach.awaiting]

/-- Read1 of the first of two arguments waits for the second (41_pipeline R135). -/
theorem Mach.step_awaiting_first (hx : ws[1]? = some x) (hlen : 2 < ws.length) :
    step ⟨c, t.awaiting .read1 true v 0 1 d⟩ = .next ⟨c, t.awaiting .read2 true v x 2 x⟩ := by
  have hip : t.ip.toNat + 2 < 2 ^ c.w := Nat.lt_of_lt_of_le (by omega) hw.1
  rw [Mach.step_awaiting ht hw hx, pipelineStep_read1 rfl, Mach.read1Step_more rfl ?_]
  · rfl
  · exact hip

/-- Read2 ends the fetch (41_pipeline R136). -/
theorem Mach.step_awaiting_second (hl : lookup v.toNat = some row) (h2 : row.arity = 2) (hy : ws[2]? = some y) :
    step ⟨c, t.awaiting .read2 true v x 2 d⟩ = .next ⟨c, t.fetched v x y⟩ := by
  rw [Mach.step_awaiting ht hw hy, pipelineStep_read2 rfl, Mach.fetched_eq t hl]
  simp [h2, Mach.awaiting, Mach.read2Step]

end Words

/-- A Fetch tick performs the request pending before it, and waits for the word at IP (41_pipeline R133). -/
theorem Mach.step_fetch_awaiting (hm : m.terminated = false) (hp : m.pipelineState = .fetch)
    (hs : m.serviceRequest = some t) : step ⟨c, m⟩ = .next ⟨c, t.awaiting .decode false 0 0 0 t.data⟩ := by
  rw [step_fetch hm hp hs]
  simp [Mach.fetchStep, Mach.awaiting, Mach.requestRead]

/-- A fetch takes 2 + arity ticks, and consumes the words that stand in RAM at IP once the request pending before it is
performed (41_pipeline R133 to R136, R148). -/
theorem Mach.runsInside_fetched {args : List (Word c.w)} (hm : m.terminated = false) (hp : m.pipelineState = .fetch)
    (hs : m.serviceRequest = some t) (hl : lookup v.toNat = some row) (hlen : args.length = row.arity)
    (hw : t.holds m.ip.toNat (v :: args)) :
    m.RunsInside (t.fetched v (args.getD 0 (zeroWord c.w)) (args.getD 1 (zeroWord c.w))) (2 + row.arity) := by
  obtain ⟨ht, hip, hcounter⟩ : t.terminated = false ∧ t.ip = m.ip ∧ t.counter = m.counter := by
    rw [Mach.serviceRequest_some hs]
    exact ⟨hm, rfl, rfl⟩
  rw [← hip] at hw
  have hfetch := (Mach.RunsInside.refl m).tick (Mach.step_fetch_awaiting hm hp hs) nofun hip hcounter
  obtain h | h | h := lookup_arity hl <;> rw [h] at hlen ⊢
  · obtain rfl := List.length_eq_zero_iff.1 hlen
    exact hfetch.tick (Mach.step_awaiting_opcode_last ht hw hl h rfl) nofun hip hcounter
  · obtain ⟨x, rfl⟩ := List.length_eq_one_iff.1 hlen
    have hdecode := hfetch.tick (Mach.step_awaiting_opcode ht hw hl (by omega) rfl (by simp)) nofun hip hcounter
    rw [h] at hdecode
    exact hdecode.tick (Mach.step_awaiting_first_last ht hw hl h rfl) nofun hip hcounter
  · obtain ⟨x, y, rfl⟩ := List.length_eq_two.1 hlen
    have hdecode := hfetch.tick (Mach.step_awaiting_opcode ht hw hl (by omega) rfl (by simp)) nofun hip hcounter
    rw [h] at hdecode
    have hread1 := hdecode.tick (Mach.step_awaiting_first ht hw rfl (by simp)) nofun hip hcounter
    exact hread1.tick (Mach.step_awaiting_second ht hw hl h rfl) nofun hip hcounter

/-- `t` with the words of `i` fetched (41_pipeline R133 to R136). -/
def Mach.fetchedInstr (t : Mach c) (i : Instr) : Mach c :=
  t.fetched (fromValue c.w i.opcode) (fromValue c.w (i.operands.getD 0 0)) (fromValue c.w (i.operands.getD 1 0))

variable {i : Instr}

/-- The scratch registers hold the fetched instruction (10_state R25). -/
theorem Mach.decode_fetchedInstr (t : Mach c) (hwf : i.wf c.w = true) :
    ∃ rest, decode (t.fetchedInstr i).scratch = .ok (i, rest) := by
  obtain ⟨hop, -⟩ := Instr.wf_iff.1 hwf
  obtain ⟨row, hl, hlen, -⟩ := lookup_opcode i
  refine ⟨List.replicate (2 - i.arity) 0, decode_eq_ok_iff.2 ⟨hwf, ?_⟩⟩
  rw [Mach.fetchedInstr, Mach.fetched_eq t (by rwa [toNat_fromValue hop]), ← hlen]
  cases i <;> rfl

/-- The tick after a fetch runs the fetched instruction (41_pipeline R137). -/
theorem Mach.step_fetchedInstr (ht : t.terminated = false) (hwf : i.wf c.w = true) :
    step ⟨c, t.fetchedInstr i⟩ = exec i ⟨c, t.fetchedInstr i⟩ := by
  obtain ⟨rest, hd⟩ := t.decode_fetchedInstr hwf
  exact step_execute1 (m := t.fetchedInstr i) ht rfl rfl hd

/-- The fetch of a well-formed instruction (41_pipeline R133 to R136, R148). -/
theorem Mach.runsInside_fetchedInstr (hm : m.terminated = false) (hp : m.pipelineState = .fetch)
    (hs : m.serviceRequest = some t) (hwf : i.wf c.w = true) (hw : t.holds m.ip.toNat (encode c.w i)) :
    m.RunsInside (t.fetchedInstr i) (2 + i.arity) := by
  obtain ⟨hop, -⟩ := Instr.wf_iff.1 hwf
  obtain ⟨row, hl, hlen, -⟩ := lookup_opcode i
  rw [← toNat_fromValue hop] at hl
  have hfetched := Mach.runsInside_fetched hm hp hs hl (by rw [List.length_map, hlen]) hw
  rwa [List.getD_map, List.getD_map, ← hlen] at hfetched

end Fetch

/-- Settles O35: the fetch ends in the state that holds the instruction's words, whose handler the next tick runs. -/
theorem fetchedWordsReachTheirHandler : Obligations.FetchedWordsReachTheirHandler := by
  intro c m t i hm hp hs hwf hw
  obtain ⟨hrun, -⟩ := Mach.runsInside_fetchedInstr hm hp hs hwf hw
  obtain ⟨ram, data, rfl⟩ := Mach.serviceRequest_ramData hs
  have hnext : run (3 + i.arity) ⟨c, m⟩ = step ⟨c, Mach.fetchedInstr { m with ram := ram, data := data } i⟩ := by
    rw [← run_succ_last hrun, Nat.add_right_comm]
  obtain ⟨hop, -⟩ := Instr.wf_iff.1 hwf
  exact ⟨_, rfl, hrun, hnext.trans (Mach.step_fetchedInstr hm hwf), rfl, toNat_fromValue hop, rfl, rfl, rfl, rfl, rfl, rfl,
    rfl⟩

/-! ## The ticks of an instruction -/

/-- `u` is past the instruction that `m` was in: it has committed or faulted (40_alu R112, R113). -/
def Mach.PastInstr (m u : Mach c) : Prop :=
  u.fatal = true ∨ (u.pipelineState = .fetch ∧ u.counter.toNat = m.counter.toNat + 1)

/-- A Counter step that does not carry counts one instruction (10_state R31). -/
theorem toNat_add_oneWord {a : Word c.w} (h : a.toNat + 1 < 2 ^ c.w) : (a + oneWord c.w).toNat = a.toNat + 1 := by
  rw [BitVec.toNat_add, toNat_oneWord, Nat.mod_eq_of_lt h]

section Ticks

variable {m t u : Mach c} {i : Instr}

theorem Mach.pastInstr_commit (m : Mach c) (n : Nat) : m.PastInstr (m.commit n) := by
  obtain hlt | hfull := Nat.lt_or_eq_of_le (Nat.succ_le_of_lt m.counter.isLt)
  · obtain ⟨_, _, _, hfault⟩ | hdone := m.commit_cases n
    · exact .inl (hfault ▸ rfl)
    · exact .inr (hdone ▸ ⟨rfl, toNat_add_oneWord hlt⟩)
  · exact .inl (Mach.commit_of_counterFull hfull n ▸ rfl)

theorem Mach.pastInstr_jumpTo (m : Mach c) (x : Word c.w) : m.PastInstr (m.jumpTo x) := by
  obtain hlt | hfull := Nat.lt_or_eq_of_le (Nat.succ_le_of_lt m.counter.isLt)
  · obtain ⟨_, _, _, hfault⟩ | hdone := m.jumpTo_cases x
    · exact .inl (hfault ▸ rfl)
    · exact .inr (hdone ▸ ⟨rfl, toNat_add_oneWord hlt⟩)
  · exact .inl (Mach.jumpTo_of_counterFull hfull x ▸ rfl)

/-- A handler that commits or jumps ends its instruction. -/
theorem Mach.Ends.pastInstr (h : m.Ends i t) : m.PastInstr t := by
  cases h with
  | badIndex => exact .inl rfl
  | commit u hw =>
    rw [Mach.PastInstr, ← hw.counter]
    exact u.pastInstr_commit _
  | jump u a hw =>
    rw [Mach.PastInstr, ← hw.counter]
    exact u.pastInstr_jumpTo a

/-- LD's first phase stays inside the instruction, faulting or not (45_load_store R200). -/
theorem Mach.ldPhase1_stays (m : Mach c) (x : Nat) (hp : m.pipelineState ≠ .fetch) :
    (m.ldPhase1 x).pipelineState ≠ .fetch ∧ (m.ldPhase1 x).ip = m.ip ∧ (m.ldPhase1 x).counter = m.counter := by
  by_cases hx : x < c.cnCount
  · rw [Mach.ldPhase1_inside m hx]
    exact ⟨nofun, rfl, rfl⟩
  · rw [Mach.ldPhase1, Mach.readCR_beyond m hx]
    exact ⟨hp, rfl, rfl⟩

/-- The tick of Execute2 with LD's opcode ends the instruction, unless it is a host error (45_load_store R201). -/
theorem step_execute2_pastInstr (hm : m.terminated = false) (hp : m.pipelineState = .execute2)
    (hop : m.commandCode.toNat = ldOpcode) (h : step ⟨c, m⟩ = .next ⟨c, u⟩) : m.PastInstr u := by
  cases hs : m.serviceRequest with
  | none => cases (step_hostError m hm hs).symm.trans h
  | some t =>
    obtain ⟨-, hphase2⟩ := stepRunsTheDecodedInstruction c m t hm hs
    rw [hphase2 hp hop] at h
    obtain ⟨ram, data, rfl⟩ := Mach.serviceRequest_ramData hs
    exact (ends_of_exec (m := { m with ram := ram, data := data, en := false }) (fun _ _ _ => hp) h).pastInstr

/-- The tick after LD's first phase ends the instruction, unless it is a host error (45_load_store R200, R201). -/
theorem step_ldPhase1_pastInstr (hm : m.terminated = false) (hop : m.commandCode.toNat = ldOpcode) (x : Nat)
    (h : step ⟨c, m.ldPhase1 x⟩ = .next ⟨c, u⟩) : m.PastInstr u := by
  by_cases hx : x < c.cnCount
  · rw [Mach.ldPhase1_inside m hx] at h
    have hpast := step_execute2_pastInstr (by exact hm) (by rfl) (by exact hop) h
    exact hpast
  · rw [Mach.ldPhase1, Mach.readCR_beyond m hx] at h
    cases (step_halted _ rfl).symm.trans h
    exact .inl rfl

/-- With an address in RAM, the tick after LD's first phase is no host error (20_memory R52). -/
theorem step_ldPhase1_next (hm : m.terminated = false) {x : Nat} (hx : x < c.cnCount)
    (ha : m.cr[x].toNat < c.ramWords) : ∃ u : Mach c, step ⟨c, m.ldPhase1 x⟩ = .next ⟨c, u⟩ := by
  rw [Mach.ldPhase1_inside m hx, step_running _ (by exact hm) (Mach.serviceRequest_read rfl (by exact ha) rfl)]
  exact pipelineStep_next _

/-- Every instruction but LD takes one tick after its fetch (41_pipeline R148). -/
theorem instrTicks_of_ne_ld (h : ∀ x y, i ≠ .ld x y) : instrTicks i = 2 + i.arity + 1 := by
  cases i
  case ld x y => exact absurd rfl (h x y)
  all_goals rfl

/-- What follows the fetch of LD's words: its first phase, still inside the instruction (45_load_store R200). -/
theorem Mach.RunsInside.ldPhase1 {n x y : Nat} (h : m.RunsInside (t.fetchedInstr (.ld x y)) n)
    (ht : t.terminated = false) (hwf : (Instr.ld x y).wf c.w = true) (hip : t.ip = m.ip)
    (hcounter : t.counter = m.counter) : m.RunsInside ((t.fetchedInstr (.ld x y)).ldPhase1 x) (n + 1) := by
  have hphase1 := (Mach.step_fetchedInstr ht hwf).trans (exec_ld_phase1 (t.fetchedInstr (.ld x y)) x y nofun)
  obtain ⟨hpipeline, hip1, hcounter1⟩ := (t.fetchedInstr (.ld x y)).ldPhase1_stays x nofun
  exact h.tick hphase1 hpipeline (hip1.trans hip) (hcounter1.trans hcounter)

/-- A run inside an instruction whose next tick ends it takes one tick more. -/
theorem Mach.RunsInside.takesTicks {v : Mach c} {n : Nat} (h : m.RunsInside v n)
    (hlast : ∀ u, step ⟨c, v⟩ = .next ⟨c, u⟩ → m.PastInstr u) :
    (∀ k u, 0 < k → k < n + 1 → run k ⟨c, m⟩ = .next ⟨c, u⟩ →
      u.pipelineState ≠ .fetch ∧ u.ip = m.ip ∧ u.counter = m.counter) ∧
    (∀ u, run (n + 1) ⟨c, m⟩ = .next ⟨c, u⟩ → m.PastInstr u) := by
  obtain ⟨hrun, hinside⟩ := h
  exact ⟨fun k u hk hkn hu => hinside k u hk (Nat.le_of_lt_succ hkn) hu,
    fun u hu => hlast u ((run_succ_last hrun).symm.trans hu)⟩

end Ticks

/-- Settles O36: the fetch stays inside the instruction, and so does LD's first phase; the tick after them ends it. -/
theorem instructionTakesItsTicks : Obligations.InstructionTakesItsTicks := by
  intro c m t i hm _ hp hs hwf hw
  have hfetch := Mach.runsInside_fetchedInstr hm hp hs hwf hw
  obtain ⟨ram, data, rfl⟩ := Mach.serviceRequest_ramData hs
  by_cases hld : ∃ x y, i = .ld x y
  · obtain ⟨x, y, rfl⟩ := hld
    obtain ⟨hop, -⟩ := Instr.wf_iff.1 hwf
    have hphase1 := hfetch.ldPhase1 hm hwf rfl rfl
    obtain ⟨hbefore, hafter⟩ := hphase1.takesTicks fun u hu =>
      step_ldPhase1_pastInstr (m := Mach.fetchedInstr { m with ram := ram, data := data } (.ld x y)) hm
        (toNat_fromValue hop) x hu
    refine ⟨hbefore, hafter, fun hne => absurd rfl (hne x y), fun x' y' hx heq ha => ?_⟩
    cases heq
    obtain ⟨u, hu⟩ := step_ldPhase1_next (m := Mach.fetchedInstr { m with ram := ram, data := data } (.ld x y)) hm hx ha
    exact ⟨u, (run_succ_last hphase1.1).trans hu⟩
  · have hne : ∀ x y, i ≠ .ld x y := fun x y hi => hld ⟨x, y, hi⟩
    have hexec := Mach.step_fetchedInstr (t := { m with ram := ram, data := data }) hm hwf
    obtain ⟨hbefore, hafter⟩ := hfetch.takesTicks fun u hu =>
      (ends_of_exec (fun x y hi => absurd hi (hne x y)) (hexec.symm.trans hu)).pastInstr
    rw [instrTicks_of_ne_ld hne]
    refine ⟨hbefore, hafter, fun _ => ?_, fun x y _ hi => absurd hi (hne x y)⟩
    obtain ⟨u, hu⟩ := exec_next (Mach.fetchedInstr { m with ram := ram, data := data } i) i
    exact ⟨u, ((run_succ_last hfetch.1).trans hexec).trans hu⟩

end Sys2Proof.Machine
end

section
/-! The statement of 42_control: NOOP only commits, and RST is the normal halt. -/

namespace Sys2Proof.Machine

variable {c : Config} {m : Mach c}

/-- NOOP has no write of its own before its commit (42_control R160). -/
theorem exec_noop_of_canCommit (h : m.canCommit 1) : exec .noop ⟨c, m⟩ = .next ⟨c, m.committed 1⟩ := by
  rw [exec_noop, Mach.commit_of_canCommit h]

/-- RST sets Terminated, which a commit does not read, and commits (42_control R161). -/
theorem exec_rst_of_canCommit (h : m.canCommit 1) :
    exec .rst ⟨c, m⟩ = .next ⟨c, m.setTerminated.committed 1⟩ := by
  have hset : m.setTerminated.canCommit 1 := h
  rw [exec_rst, Mach.commit_of_canCommit hset]

/-- A commit without a fault keeps both halt flags, so after RST only a Fatal set before it can make the end a fault
(60_exceptions R225). -/
theorem Mach.endedNormally_setTerminated_committed (n : Nat) (hf : m.fatal = false) :
    State.endedNormally ⟨c, m.setTerminated.committed n⟩ :=
  ⟨rfl, hf⟩

/-- Settles O37: each handler is its own writes, then a commit that does not fault; RST's leaves a halted machine. -/
theorem noopOnlyCommitsAndRstHaltsNormally : Obligations.NoopOnlyCommitsAndRstHaltsNormally := by
  intro c m h
  exact ⟨exec_noop_of_canCommit h, exec_rst_of_canCommit h, Mach.endedNormally_setTerminated_committed 1,
    tick_halted (m := m.setTerminated.committed 1) rfl⟩

end Sys2Proof.Machine
end

section
/-! The statements of 43_register: CLR, INC, MOV and DEC write their register, then commit, and change nothing else. -/

namespace Sys2Proof.Machine

variable {c : Config} {m : Mach c}

/-! ## What the instructions write -/

/-- A commit reads no general register, so a write of one before it neither makes it fault nor is undone by it
(40_alu R112). -/
theorem Mach.commit_set_cr {n x : Nat} (h : m.canCommit n) (hx : x < c.cnCount) (v : Word c.w) :
    (m.set (.cr ⟨x, hx⟩) v).commit n = Mach.committed { m with cr := m.cr.set x v } n :=
  Mach.commit_of_canCommit (m := m.set (.cr ⟨x, hx⟩) v) h

section Inside

variable {x : Nat} (hx : x < c.cnCount)

include hx

/-- CLR clears its register and commits (43_register R170). -/
theorem exec_clr_of_canCommit (h : m.canCommit 2) :
    exec (.clr x) ⟨c, m⟩ = .next ⟨c, Mach.committed { m with cr := m.cr.set x 0 } 2⟩ := by
  rw [exec_clr m hx, Mach.commit_set_cr h]

/-- INC adds 1 to its register mod 2^W and commits, its carry overwritten by the commit's (43_register R171). -/
theorem exec_inc_of_canCommit (h : m.canCommit 2) :
    exec (.inc x) ⟨c, m⟩ = .next ⟨c, Mach.committed { m with cr := m.cr.set x (m.cr[x] + oneWord c.w) } 2⟩ := by
  rw [exec_inc m hx, Mach.commit_addToReg, addW_sum, Mach.commit_set_cr h]
  rfl

/-- DEC subtracts 1 from its register mod 2^W and commits, its borrow overwritten by the commit's carry
(43_register R173). -/
theorem exec_dec_of_canCommit (h : m.canCommit 2) :
    exec (.dec x) ⟨c, m⟩ = .next ⟨c, Mach.committed { m with cr := m.cr.set x (m.cr[x] - oneWord c.w) } 2⟩ := by
  rw [exec_dec m hx, Mach.commit_subFromReg, subW_difference, Mach.commit_set_cr h]
  rfl

/-- MOV copies its second register into its first and commits (43_register R172). -/
theorem exec_mov_of_canCommit {y : Nat} (hy : y < c.cnCount) (h : m.canCommit 3) :
    exec (.mov x y) ⟨c, m⟩ = .next ⟨c, Mach.committed { m with cr := m.cr.set x m.cr[y] } 3⟩ := by
  rw [exec_mov m hx hy, Mach.commit_set_cr h]

end Inside

/-- Settles O38: each handler is one register write, then a commit that does not fault. -/
theorem registerInstructionsWriteTheirRegister : Obligations.RegisterInstructionsWriteTheirRegister := by
  intro c m x hx
  exact ⟨fun h => ⟨exec_clr_of_canCommit hx h, exec_inc_of_canCommit hx h, exec_dec_of_canCommit hx h⟩,
    fun y hy h => exec_mov_of_canCommit hx hy h⟩

/-! ## What the instructions leave unchanged -/

/-- Everything a register instruction can do: fault on a bad index, or write CR[x] and go into its commit
(10_state R34, 43_register R170 to R173). -/
theorem exec_register_cases (m : Mach c) {x y : Nat} {i : Instr} (hi : i ∈ [Instr.clr x, .inc x, .mov x y, .dec x]) :
    exec i ⟨c, m⟩ = .next ⟨c, m.raiseFatal .registerIndex⟩ ∨
      ∃ (hx : x < c.cnCount) (v : Word c.w), exec i ⟨c, m⟩ = .next ⟨c, (m.set (.cr ⟨x, hx⟩) v).commit i.length⟩ := by
  simp only [List.mem_cons, List.not_mem_nil, or_false] at hi
  by_cases hx : x < c.cnCount
  · obtain rfl | rfl | rfl | rfl := hi
    · exact .inr ⟨hx, _, exec_clr m hx⟩
    · exact .inr ⟨hx, _, (exec_inc m hx).trans (by rw [Mach.commit_addToReg]; rfl)⟩
    · by_cases hy : y < c.cnCount
      · exact .inr ⟨hx, _, exec_mov m hx hy⟩
      · exact .inl (exec_beyond2 m (fun h => hy h.2) (.inr (.inl rfl)))
    · exact .inr ⟨hx, _, (exec_dec m hx).trans (by rw [Mach.commit_subFromReg]; rfl)⟩
  · obtain rfl | rfl | rfl | rfl := hi
    case inr.inr.inl => exact .inl (exec_beyond2 m (fun h => hx h.1) (.inr (.inl rfl)))
    all_goals exact .inl (exec_beyond m hx (by simp))

/-- A write of CR[x] and a commit change no other general register, no scratch register and no bus (10_state R35). -/
theorem Mach.set_cr_commit_frame (m : Mach c) {x : Nat} (hx : x < c.cnCount) (v : Word c.w) (n : Nat) :
    m.keepsRegisters ((m.set (.cr ⟨x, hx⟩) v).commit n) (fun j => j = x) ∧
      m.keepsScratch ((m.set (.cr ⟨x, hx⟩) v).commit n) ∧ m.keepsBuses ((m.set (.cr ⟨x, hx⟩) v).commit n) := by
  obtain ⟨hcr, hscratch, hbuses⟩ := (m.set (.cr ⟨x, hx⟩) v).keepsStorage_commit n
  refine ⟨fun j hj hne => ?_, hscratch, hbuses⟩
  simp only [hcr, Mach.set_cr_cr]
  exact Vector.getElem_set_ne hx hj (Ne.symm hne)

/-- A register instruction writes no other general register, no scratch register and no bus (43_register R170 to
R173). -/
theorem exec_register_frame {t : Mach c} {x y : Nat} {i : Instr} (hi : i ∈ [Instr.clr x, .inc x, .mov x y, .dec x])
    (h : exec i ⟨c, m⟩ = .next ⟨c, t⟩) :
    m.keepsRegisters t (fun j => j = x) ∧ m.keepsScratch t ∧ m.keepsBuses t := by
  obtain hfault | ⟨hx, v, hwrite⟩ := exec_register_cases m hi
  · cases hfault.symm.trans h
    obtain ⟨hcr, hrest⟩ := m.keepsStorage_raiseFatal .registerIndex
    exact ⟨fun j hj _ => by rw [hcr], hrest⟩
  · cases hwrite.symm.trans h
    exact m.set_cr_commit_frame hx v i.length

/-- No register instruction is RST, CMP or one that writes AR (30_encoding R85). -/
theorem opcode_register_not_mem {x y : Nat} {i : Instr} (hi : i ∈ [Instr.clr x, .inc x, .mov x y, .dec x]) :
    i.opcode ∉ 0x01 :: 0x12 :: arWriters := by
  revert i
  simp [Instr.opcode, arWriters]

/-- Settles O53: AR, the flags and RAM by what every instruction keeps, the rest by the two ends of a register
instruction. -/
theorem registerInstructionsChangeOnlyTheirRegister : Obligations.RegisterInstructionsChangeOnlyTheirRegister := by
  intro c m t x y i hi h
  obtain ⟨hregs, hscratch, hbuses⟩ := exec_register_frame hi h
  obtain ⟨⟨har, hzero, hhalt⟩, hram⟩ := keeps_of_exec h
  obtain ⟨hrst, hcmp, hwriters⟩ : i.opcode ≠ 0x01 ∧ i.opcode ≠ 0x12 ∧ i.opcode ∉ arWriters := by
    simpa only [List.mem_cons, not_or] using opcode_register_not_mem hi
  exact ⟨hregs, har.resolve_right fun ⟨k, hk, hop⟩ => hwriters (hop ▸ hk), hzero.resolve_right hcmp, hscratch, hbuses,
    fun a => by rw [hram], hhalt.resolve_right fun ⟨hop, _⟩ => hrst hop⟩

end Sys2Proof.Machine
end

section
/-! The statements of 44_accumulator: SUM, CLRA, INCA, ADDA, SUB, SUBA and DECA write AR, then commit, and change nothing
else. -/

namespace Sys2Proof.Machine

variable {c : Config} {m : Mach c}

/-! ## What the instructions write -/

/-- A commit reads no AR, so a write of AR before it neither makes it fault nor is undone by it (40_alu R112). -/
theorem Mach.commit_set_ar {n : Nat} (h : m.canCommit n) (v : Word c.w) :
    (m.set .ar v).commit n = Mach.committed { m with ar := v } n :=
  Mach.commit_of_canCommit (m := m.set .ar v) h

/-- The carry of an addition to AR does not survive the commit (40_alu R116). -/
theorem Mach.commit_addToAr (m : Mach c) (v : Word c.w) (n : Nat) :
    (m.addToReg .ar v).1.commit n = (m.set .ar (m.ar + v)).commit n := by
  rw [Mach.commit_addToReg, addW_sum]
  rfl

/-- The borrow of a subtraction from AR does not survive the commit (40_alu R116). -/
theorem Mach.commit_subFromAr (m : Mach c) (v : Word c.w) (n : Nat) :
    (m.subFromReg .ar v).1.commit n = (m.set .ar (m.ar - v)).commit n := by
  rw [Mach.commit_subFromReg, subW_difference]
  rfl

section Writes

variable (m)

/-- INCA is a write of AR + 1 and a commit (44_accumulator R182). -/
theorem exec_inca_set_ar : exec .inca ⟨c, m⟩ = .next ⟨c, (m.set .ar (m.ar + oneWord c.w)).commit 1⟩ := by
  rw [exec_inca, Mach.commit_addToAr]

/-- DECA is a write of AR - 1 and a commit (44_accumulator R186). -/
theorem exec_deca_set_ar : exec .deca ⟨c, m⟩ = .next ⟨c, (m.set .ar (m.ar - oneWord c.w)).commit 1⟩ := by
  rw [exec_deca, Mach.commit_subFromAr]

variable {x y : Nat} (hx : x < c.cnCount)

include hx

/-- ADDA is a write of AR + CR[x] and a commit (44_accumulator R183). -/
theorem exec_adda_set_ar : exec (.adda x) ⟨c, m⟩ = .next ⟨c, (m.set .ar (m.ar + m.cr[x])).commit 2⟩ := by
  rw [exec_adda m hx, Mach.commit_addToAr]

/-- SUBA is a write of AR - CR[x] and a commit (44_accumulator R185). -/
theorem exec_suba_set_ar : exec (.suba x) ⟨c, m⟩ = .next ⟨c, (m.set .ar (m.ar - m.cr[x])).commit 2⟩ := by
  rw [exec_suba m hx, Mach.commit_subFromAr]

variable (hy : y < c.cnCount)

include hy

/-- SUM is a write of CR[x] + CR[y] and a commit: its first write of AR is overwritten by the sum (44_accumulator
R180). -/
theorem exec_sum_set_ar : exec (.sum x y) ⟨c, m⟩ = .next ⟨c, (m.set .ar (m.cr[x] + m.cr[y])).commit 3⟩ := by
  rw [exec_sum m hx hy, Mach.commit_addToAr]
  rfl

/-- SUB is a write of CR[x] - CR[y] and a commit: its first write of AR is overwritten by the difference (44_accumulator
R184). -/
theorem exec_sub_set_ar : exec (.sub x y) ⟨c, m⟩ = .next ⟨c, (m.set .ar (m.cr[x] - m.cr[y])).commit 3⟩ := by
  rw [exec_sub m hx hy, Mach.commit_subFromAr]
  rfl

end Writes

/-- Settles O39: each handler is one write of AR, then a commit that does not fault. -/
theorem accumulatorInstructionsAccumulate : Obligations.AccumulatorInstructionsAccumulate := by
  intro c m
  refine ⟨fun h => ⟨?clra, ?inca, ?deca⟩, fun x hx h => ⟨?adda, ?suba⟩⟩
  case clra => rw [exec_clra, Mach.commit_set_ar h]
  case inca => rw [exec_inca_set_ar, Mach.commit_set_ar h]
  case deca => rw [exec_deca_set_ar, Mach.commit_set_ar h]
  case adda => rw [exec_adda_set_ar m hx, Mach.commit_set_ar h]
  case suba => rw [exec_suba_set_ar m hx, Mach.commit_set_ar h]

/-- Settles O40: each handler comes to one write of AR, then a commit that does not fault. -/
theorem sumAndSubWriteTheAccumulator : Obligations.SumAndSubWriteTheAccumulator := by
  intro c m x y hx hy h
  exact ⟨by rw [exec_sum_set_ar m hx hy, Mach.commit_set_ar h], by rw [exec_sub_set_ar m hx hy, Mach.commit_set_ar h]⟩

/-! ## What the instructions leave unchanged -/

/-- Everything an accumulator instruction can do: fault on a bad index, or write AR and go into its commit
(10_state R34, 44_accumulator R180 to R186). -/
theorem exec_accumulator_cases (m : Mach c) {x y : Nat} {i : Instr}
    (hi : i ∈ [Instr.sum x y, .clra, .inca, .adda x, .sub x y, .suba x, .deca]) :
    exec i ⟨c, m⟩ = .next ⟨c, m.raiseFatal .registerIndex⟩ ∨
      ∃ v : Word c.w, exec i ⟨c, m⟩ = .next ⟨c, (m.set .ar v).commit i.length⟩ := by
  simp only [List.mem_cons, List.not_mem_nil, or_false] at hi
  obtain rfl | rfl | rfl | rfl | rfl | rfl | rfl := hi
  · by_cases hxy : x < c.cnCount ∧ y < c.cnCount
    · obtain ⟨hx, hy⟩ := hxy
      exact .inr ⟨_, exec_sum_set_ar m hx hy⟩
    · exact .inl (exec_beyond2 m hxy (by simp))
  · exact .inr ⟨_, exec_clra m⟩
  · exact .inr ⟨_, exec_inca_set_ar m⟩
  · by_cases hx : x < c.cnCount
    · exact .inr ⟨_, exec_adda_set_ar m hx⟩
    · exact .inl (exec_beyond m hx (by simp))
  · by_cases hxy : x < c.cnCount ∧ y < c.cnCount
    · obtain ⟨hx, hy⟩ := hxy
      exact .inr ⟨_, exec_sub_set_ar m hx hy⟩
    · exact .inl (exec_beyond2 m hxy (by simp))
  · by_cases hx : x < c.cnCount
    · exact .inr ⟨_, exec_suba_set_ar m hx⟩
    · exact .inl (exec_beyond m hx (by simp))
  · exact .inr ⟨_, exec_deca_set_ar m⟩

/-- An accumulator instruction writes no general register, no scratch register and no bus (44_accumulator R180 to
R186). -/
theorem exec_accumulator_keepsStorage {t : Mach c} {x y : Nat} {i : Instr}
    (hi : i ∈ [Instr.sum x y, .clra, .inca, .adda x, .sub x y, .suba x, .deca])
    (h : exec i ⟨c, m⟩ = .next ⟨c, t⟩) : m.KeepsStorage t := by
  obtain hfault | ⟨v, hwrite⟩ := exec_accumulator_cases m hi
  · cases hfault.symm.trans h
    exact m.keepsStorage_raiseFatal .registerIndex
  · cases hwrite.symm.trans h
    exact (m.set .ar v).keepsStorage_commit i.length

/-- No accumulator instruction is RST or CMP (30_encoding R85). -/
theorem opcode_accumulator_ne {x y : Nat} {i : Instr}
    (hi : i ∈ [Instr.sum x y, .clra, .inca, .adda x, .sub x y, .suba x, .deca]) :
    i.opcode ≠ 0x01 ∧ i.opcode ≠ 0x12 := by
  revert i
  simp [Instr.opcode]

/-- Settles O54: Zero, the halt flags and RAM by what every instruction keeps, the rest by the two ends of an accumulator
instruction. -/
theorem accumulatorInstructionsChangeOnlyTheAccumulator :
    Obligations.AccumulatorInstructionsChangeOnlyTheAccumulator := by
  intro c m t x y i hi h
  obtain ⟨hcr, hscratch, hbuses⟩ := exec_accumulator_keepsStorage hi h
  obtain ⟨⟨-, hzero, hhalt⟩, hram⟩ := keeps_of_exec h
  obtain ⟨hrst, hcmp⟩ := opcode_accumulator_ne hi
  exact ⟨fun j hj _ => by rw [hcr], hzero.resolve_right hcmp, hscratch, hbuses, fun a => by rw [hram],
    hhalt.resolve_right fun ⟨hop, _⟩ => hrst hop⟩

end Sys2Proof.Machine
end

section
/-! The statements of 45_load_store: LD requests its word and consumes it one tick later, ST requests its write and
commits in the same tick, and neither changes anything but its target or its request. -/

namespace Sys2Proof.Machine

variable {c : Config} {m : Mach c}

/-! ## The two phases of LD -/

/-- LD's second phase takes DATA into CR[y] and commits (45_load_store R201). -/
theorem exec_ld_phase2_of_canCommit (x : Nat) {y : Nat} (hy : y < c.cnCount) (hp : m.pipelineState = .execute2)
    (h : m.canCommit 3) :
    exec (.ld x y) ⟨c, m⟩ = .next ⟨c, Mach.committed { m with cr := m.cr.set y m.data } 3⟩ := by
  rw [exec_ld_phase2 m x y hp, Mach.ldPhase2_inside m hy, Mach.commit_set_cr h]

/-- Settles O41: the pipeline state chooses the phase, and only the second one commits. -/
theorem ldRequestsThenConsumes : Obligations.LdRequestsThenConsumes := by
  intro c m x y
  refine ⟨fun hx hp => ?_, fun hy hp h => exec_ld_phase2_of_canCommit x hy hp h⟩
  rw [exec_ld_phase1 m x y hp, Mach.ldPhase1_inside m hx]

/-- Scratch registers that decode to LD hold what Execute2 reads of them again: LD's opcode, and the index of the
register it loads (10_state R25, 41_pipeline R138). -/
theorem Mach.scratch_of_decode_ld {x y : Nat} {rest : List (Word c.w)} (hd : decode m.scratch = .ok (.ld x y, rest)) :
    m.commandCode.toNat = ldOpcode ∧ m.arg2.toNat = y := by
  obtain ⟨hwf, hwords⟩ := decode_eq_ok_iff.1 hd
  obtain ⟨hop, hargs⟩ := Instr.wf_iff.1 hwf
  simp only [Mach.scratch, encode_cons, Instr.operands, List.map_cons, List.map_nil, List.cons_append, List.nil_append,
    List.cons.injEq] at hwords
  obtain ⟨hcode, -, hy, -⟩ := hwords
  exact ⟨hcode ▸ toNat_fromValue hop, hy ▸ toNat_fromValue (hargs y (by simp [Instr.operands]))⟩

/-- The step of a running machine in Execute2 with LD's read pending services the read, then consumes its word
(20_memory R61, 45_load_store R201). -/
theorem step_execute2_ld {y : Nat} (hy : y < c.cnCount) (hm : m.terminated = false) (hp : m.pipelineState = .execute2)
    (hop : m.commandCode.toNat = ldOpcode) (harg2 : m.arg2.toNat = y) (hen : m.en = true) (hwr : m.wr = false)
    (ha : m.addr.toNat < c.ramWords) (hcommit : m.canCommit 3) :
    step ⟨c, m⟩ = .next ⟨c, Mach.committed { m with
      cr := m.cr.set y (Ram.read m.ram m.addr.toNat), en := false, data := Ram.read m.ram m.addr.toNat } 3⟩ := by
  have hread := Mach.serviceRequest_read hen ha hwr
  obtain ⟨-, hphase2⟩ := stepRunsTheDecodedInstruction c m _ hm hread
  rw [hphase2 hp hop, harg2]
  exact exec_ld_phase2_of_canCommit (m := { m with data := Ram.read m.ram m.addr.toNat, en := false }) _ hy hp hcommit

/-- Settles O42: the first tick is LD's first phase, and the second services its read and is its second phase. -/
theorem ldLoadsItsWordInTwoTicks : Obligations.LdLoadsItsWordInTwoTicks := by
  intro c m x y hx hy rest hm hp hen hd ha hcommit
  obtain ⟨hop, harg2⟩ := Mach.scratch_of_decode_ld hd
  have hfirst : step ⟨c, m⟩ = .next ⟨c, m.ldPhase1 x⟩ := by
    rw [step_execute1 hm hp hen hd, exec_ld_phase1 m x y (by simp [hp])]
  rw [Mach.ldPhase1_inside m hx] at hfirst
  have hsecond := step_execute2_ld
    (m := { m with en := true, wr := false, addr := m.cr[x], pipelineState := .execute2 })
    hy hm rfl hop harg2 rfl rfl ha hcommit
  exact ⟨⟨_, run_succ 0 hfirst, rfl, rfl⟩, (run_succ 1 hfirst).trans (run_succ 0 hsecond)⟩

/-! ## The request of ST -/

/-- ST puts its write on the buses, which a commit does not read, and commits (45_load_store R202). -/
theorem exec_st_of_canCommit {x y : Nat} (hx : x < c.cnCount) (hy : y < c.cnCount) (h : m.canCommit 3) :
    exec (.st x y) ⟨c, m⟩ = .next ⟨c, (m.requestWrite m.cr[y] m.cr[x]).committed 3⟩ := by
  rw [exec_st m hx hy, Mach.commit_of_canCommit (m := m.requestWrite m.cr[y] m.cr[x]) h]

/-- Settles O43: the handler is the request of a write, then a commit that does not fault. -/
theorem stRequestsItsWriteAndCommits : Obligations.StRequestsItsWriteAndCommits :=
  fun _ _ _ _ hx hy h => exec_st_of_canCommit hx hy h

/-- Settles O44: ST's tick leaves Fetch with its write pending, and the next tick services it. -/
theorem stLandsInTheNextTick : Obligations.StLandsInTheNextTick := by
  intro c m x y hx hy rest hm hp hen hd hw ha hcommit
  have hst : step ⟨c, m⟩ = .next ⟨c, (m.requestWrite m.cr[y] m.cr[x]).committed 3⟩ := by
    rw [step_execute1 hm hp hen hd, exec_st_of_canCommit hx hy hcommit]
  have hwrite := Mach.serviceRequest_write (m := (m.requestWrite m.cr[y] m.cr[x]).committed 3) rfl ha rfl
  have hfetch := step_fetch (m := (m.requestWrite m.cr[y] m.cr[x]).committed 3) hm rfl hwrite
  exact ⟨_, _, run_succ 0 hst, rfl, (run_succ 1 hst).trans (run_succ 0 hfetch), fun a => Ram.read_write_from hw⟩

/-- A commit of which either step carries faults (40_alu R112, R113). -/
theorem Mach.commit_of_carry {n : Nat} (hn : n < 2 ^ c.w)
    (h : m.counter.toNat + 1 = 2 ^ c.w ∨ 2 ^ c.w ≤ m.ip.toNat + n) :
    ∃ counter ip cause, m.commit n = m.faulted counter ip cause := by
  obtain hlt | hfull := Nat.lt_or_eq_of_le (Nat.succ_le_of_lt m.counter.isLt)
  · exact ⟨_, _, _, Mach.commit_of_ipCarry hlt hn (h.resolve_left (Nat.ne_of_lt hlt))⟩
  · exact ⟨_, _, _, Mach.commit_of_counterFull hfull n⟩

/-- Settles O52: the fault leaves the request on the buses of a halted machine, and no step changes that machine. -/
theorem pendingStoreOfAFaultNeverLands : Obligations.PendingStoreOfAFaultNeverLands := by
  intro c m t x y hx hy hcarry h
  have h3 : 3 < 2 ^ c.w := Nat.lt_of_lt_of_le (by decide) (sixteen_le_two_pow_width c)
  obtain ⟨counter, ip, cause, hfault⟩ := Mach.commit_of_carry (m := m.requestWrite m.cr[y] m.cr[x]) h3 hcarry
  rw [exec_st m hx hy, hfault] at h
  cases h
  exact ⟨rfl, rfl, rfl, rfl, rfl, fun n => ⟨run_halted (s := ⟨c, Mach.faulted _ counter ip cause⟩) rfl n, rfl⟩⟩

/-! ## What LD and ST leave unchanged -/

/-- LD's first phase writes no general register or scratch register, not DATA, and none of what a commit writes but the
pipeline state (45_load_store R200). -/
theorem Mach.ldPhase1_frame (m : Mach c) (x : Nat) :
    (m.ldPhase1 x).cr = m.cr ∧ m.keepsScratch (m.ldPhase1 x) ∧ (m.ldPhase1 x).data = m.data ∧
      (m.ldPhase1 x).counter = m.counter ∧ (m.ldPhase1 x).ip = m.ip ∧ (m.ldPhase1 x).overflow = m.overflow := by
  by_cases hx : x < c.cnCount
  · rw [Mach.ldPhase1_inside m hx]
    exact ⟨rfl, ⟨rfl, rfl, rfl, rfl, rfl, rfl, rfl⟩, rfl, rfl, rfl, rfl⟩
  · rw [Mach.ldPhase1, Mach.readCR_beyond m hx]
    exact ⟨rfl, ⟨rfl, rfl, rfl, rfl, rfl, rfl, rfl⟩, rfl, rfl, rfl, rfl⟩

/-- LD's second phase writes no general register but CR[y], no scratch register and no bus (45_load_store R201). -/
theorem Mach.ldPhase2_frame (m : Mach c) (y : Nat) :
    m.keepsRegisters (m.ldPhase2 y) (fun j => j = y) ∧ m.keepsScratch (m.ldPhase2 y) ∧
      m.keepsBuses (m.ldPhase2 y) := by
  by_cases hy : y < c.cnCount
  · rw [Mach.ldPhase2_inside m hy]
    exact m.set_cr_commit_frame hy m.data 3
  · rw [Mach.ldPhase2, Mach.writeCR_beyond m hy]
    exact ⟨fun _ _ _ => rfl, (m.keepsStorage_raiseFatal _).2⟩

/-- ST writes no general register and no scratch register, and of the buses nothing on a bad index and its request
otherwise, whether its commit faults or not (45_load_store R202). -/
theorem exec_st_frame {t : Mach c} {x y : Nat} (h : exec (.st x y) ⟨c, m⟩ = .next ⟨c, t⟩) :
    t.cr = m.cr ∧ m.keepsScratch t ∧
      (m.keepsBuses t ∨ ∃ (hx : x < c.cnCount) (hy : y < c.cnCount),
        t.en = true ∧ t.wr = true ∧ t.addr = m.cr[y] ∧ t.data = m.cr[x]) := by
  by_cases hxy : x < c.cnCount ∧ y < c.cnCount
  · obtain ⟨hx, hy⟩ := hxy
    cases (exec_st m hx hy).symm.trans h
    obtain ⟨hcr, hscratch, hbuses⟩ := (m.requestWrite m.cr[y] m.cr[x]).keepsStorage_commit 3
    exact ⟨hcr, hscratch, .inr ⟨hx, hy, hbuses⟩⟩
  · cases (exec_beyond2 m hxy (by simp)).symm.trans h
    obtain ⟨hcr, hscratch, hbuses⟩ := m.keepsStorage_raiseFatal .registerIndex
    exact ⟨hcr, hscratch, .inl hbuses⟩

/-- An instruction that is not RST, CMP or one that writes AR keeps AR, Zero and RAM, and the halt flags but for a
fault. -/
theorem exec_keeps_of_not_mem {t : Mach c} {i : Instr} (h : exec i ⟨c, m⟩ = .next ⟨c, t⟩)
    (hi : i.opcode ∉ 0x01 :: 0x12 :: arWriters) :
    t.ar = m.ar ∧ t.zero = m.zero ∧ m.keepsRam t ∧ m.keepsHaltFlags t := by
  obtain ⟨⟨har, hzero, hhalt⟩, hram⟩ := keeps_of_exec h
  simp only [List.mem_cons, not_or] at hi
  obtain ⟨hrst, hcmp, hwriters⟩ := hi
  exact ⟨har.resolve_right fun ⟨k, hk, hop⟩ => hwriters (hop ▸ hk), hzero.resolve_right hcmp, fun a => by rw [hram],
    hhalt.resolve_right fun ⟨hop, _⟩ => hrst hop⟩

/-- Settles O56: AR, Zero, RAM and the halt flags by what every such instruction keeps, the rest by the frames of LD's
two phases and of ST. -/
theorem loadAndStoreChangeOnlyTheirTargets : Obligations.LoadAndStoreChangeOnlyTheirTargets := by
  intro c m t x y
  refine ⟨fun h => ?ld, fun h => ?st⟩
  case ld =>
    obtain ⟨har, hzero, hram, hhalt⟩ := exec_keeps_of_not_mem h (by simp [Instr.opcode, arWriters])
    by_cases hp : m.pipelineState = .execute2
    · cases (exec_ld_phase2 m x y hp).symm.trans h
      obtain ⟨hregs, hscratch, hen, hwr, haddr, hdata⟩ := m.ldPhase2_frame y
      exact ⟨fun j hj hne => hregs j hj fun hjy => hne ⟨hp, hjy⟩, har, hzero, hscratch, hram, hhalt, hdata,
        fun hne => absurd hp hne, fun _ => ⟨hen, hwr, haddr, hdata⟩⟩
    · cases (exec_ld_phase1 m x y hp).symm.trans h
      obtain ⟨hcr, hscratch, hdata, hcommit⟩ := m.ldPhase1_frame x
      exact ⟨fun j hj _ => by rw [hcr], har, hzero, hscratch, hram, hhalt, hdata, fun _ => hcommit,
        fun hp2 => absurd hp2 hp⟩
  case st =>
    obtain ⟨har, hzero, hram, hhalt⟩ := exec_keeps_of_not_mem h (by simp [Instr.opcode, arWriters])
    obtain ⟨hcr, hscratch, hbuses⟩ := exec_st_frame h
    exact ⟨fun j hj _ => by rw [hcr], har, hzero, hscratch, hram, hhalt, hbuses⟩

end Sys2Proof.Machine
end

section
/-! The statements of 46_compare_branch: JMP jumps to its target, CMP writes Zero and commits, and JZ jumps or commits as
Zero says. -/

namespace Sys2Proof.Machine

variable {c : Config} {m : Mach c}

/-- A jump whose Counter step does not carry completes: it adds nothing to IP, so no IP and no target makes it fault
(46_compare_branch R210). -/
theorem Mach.jumpTo_of_counter_lt (h : m.counter.toNat + 1 < 2 ^ c.w) (x : Word c.w) : m.jumpTo x = m.jumped x := by
  have hcarry : (addW m.counter (oneWord c.w)).2 = false := by
    rw [addW_carry, toNat_oneWord, decide_eq_false (Nat.not_le.2 h)]
  rw [Mach.jumpTo_eq, hcarry, addW_sum, if_neg Bool.false_ne_true]
  rfl

/-- JMP is a jump (46_compare_branch R210). -/
theorem exec_jmp_of_counter_lt (h : m.counter.toNat + 1 < 2 ^ c.w) (x : Nat) :
    exec (.jmp x) ⟨c, m⟩ = .next ⟨c, m.jumped (fromValue c.w x)⟩ := by
  rw [exec_jmp, Mach.jumpTo_of_counter_lt h]

/-- CMP writes Zero, which a commit does not read, and commits (46_compare_branch R211). -/
theorem exec_cmp_of_canCommit {x y : Nat} (hx : x < c.cnCount) (hy : y < c.cnCount) (h : m.canCommit 3) :
    exec (.cmp x y) ⟨c, m⟩ = .next ⟨c, (m.setZero m.cr[x] m.cr[y]).committed 3⟩ := by
  rw [exec_cmp m hx hy, Mach.commit_of_canCommit (m := m.setZero m.cr[x] m.cr[y]) h]

/-- JZ with Zero set is a jump (46_compare_branch R212). -/
theorem exec_jz_of_zero (hz : m.zero = true) (h : m.counter.toNat + 1 < 2 ^ c.w) (x : Nat) :
    exec (.jz x) ⟨c, m⟩ = .next ⟨c, m.jumped (fromValue c.w x)⟩ := by
  rw [exec_jz, if_pos hz, Mach.jumpTo_of_counter_lt h]

/-- JZ with Zero clear only commits (46_compare_branch R212). -/
theorem exec_jz_of_not_zero (hz : m.zero = false) (h : m.canCommit 2) (x : Nat) :
    exec (.jz x) ⟨c, m⟩ = .next ⟨c, m.committed 2⟩ := by
  rw [exec_jz, if_neg (Bool.eq_false_iff.1 hz), Mach.commit_of_canCommit h]

/-- Settles O46: the handler is a jump that does not fault, and the target fits a word. -/
theorem jmpSetsIpToItsTarget : Obligations.JmpSetsIpToItsTarget :=
  fun _ _ x hx h => ⟨exec_jmp_of_counter_lt h x, toNat_fromValue hx⟩

/-- Settles O47: the handler is the write of Zero, then a commit that does not fault. -/
theorem cmpSetsZeroToEquality : Obligations.CmpSetsZeroToEquality :=
  fun _ _ _ _ hx hy h => exec_cmp_of_canCommit hx hy h

/-- Settles O48: Zero chooses between the jump and the commit, and neither writes it. -/
theorem jzJumpsExactlyOnZero : Obligations.JzJumpsExactlyOnZero :=
  fun _ _ x hx => ⟨fun hz h => ⟨exec_jz_of_zero hz h x, toNat_fromValue hx⟩, fun hz h => exec_jz_of_not_zero hz h x⟩

end Sys2Proof.Machine
end

section
/-! Every run ends: what is left of the Counter and of the current instruction bounds the ticks that are left, and each
tick takes some of it (60_exceptions R236). -/

namespace Sys2Proof.Machine

variable {c : Config}

/-! ## The ticks that are left -/

/-- The most ticks that the current instruction still takes, the one that ends it included: LD's way through the pipeline
states is the longest (41_pipeline R148). In an invalid state the next tick faults. -/
def PipelineState.ticksLeft : PipelineState → Nat
  | .fetch => 6
  | .decode => 5
  | .read1 => 4
  | .read2 => 3
  | .execute1 => 2
  | .execute2 | .invalid6 | .invalid7 => 1

/-- The most ticks that a run still takes to its end: none where it has halted, otherwise those of the current instruction
and six for each instruction that the Counter can still count (40_alu R112). -/
def Mach.ticksLeft (m : Mach c) : Nat :=
  if m.terminated then 0 else 6 * (2 ^ c.w - (m.counter.toNat + 1)) + m.pipelineState.ticksLeft

theorem PipelineState.ticksLeft_pos (p : PipelineState) : 0 < p.ticksLeft := by cases p <;> decide

theorem PipelineState.ticksLeft_le_six (p : PipelineState) : p.ticksLeft ≤ 6 := by cases p <;> decide

section TicksLeft

variable {m t : Mach c}

theorem Mach.ticksLeft_halted (h : m.terminated = true) : m.ticksLeft = 0 := if_pos h

theorem Mach.ticksLeft_running (h : m.terminated = false) :
    m.ticksLeft = 6 * (2 ^ c.w - (m.counter.toNat + 1)) + m.pipelineState.ticksLeft :=
  if_neg (by simp [h])

theorem Mach.ticksLeft_pos (h : m.terminated = false) : 0 < m.ticksLeft := by
  have := m.pipelineState.ticksLeft_pos
  rw [Mach.ticksLeft_running h]
  omega

theorem Mach.ticksLeft_le (m : Mach c) : m.ticksLeft ≤ 6 * 2 ^ c.w := by
  have := m.pipelineState.ticksLeft_le_six
  have := m.counter.isLt
  unfold Mach.ticksLeft
  split <;> omega

/-! ## What a tick takes of them -/

/-- Halting a running machine leaves no tick. -/
theorem Mach.ticksLeft_lt_of_halted (hm : m.terminated = false) (ht : t.terminated = true) :
    t.ticksLeft < m.ticksLeft :=
  Mach.ticksLeft_halted ht ▸ Mach.ticksLeft_pos hm

/-- A running machine that goes on within its instruction. -/
theorem Mach.ticksLeft_lt_of_pipelineState {p : PipelineState} (q : PipelineState) (hm : m.terminated = false)
    (hp : m.pipelineState = p) (hq : t.pipelineState = q := by rfl) (hlt : q.ticksLeft < p.ticksLeft := by decide)
    (hcounter : t.counter = m.counter := by rfl) (hterm : t.terminated = m.terminated := by rfl) :
    t.ticksLeft < m.ticksLeft := by
  rw [Mach.ticksLeft_running hm, Mach.ticksLeft_running (hterm.trans hm), hcounter, hp, hq]
  omega

/-- A running machine that has counted an instruction: the new one has six ticks, which the Counter gave. -/
theorem Mach.ticksLeft_lt_of_counter (hm : m.terminated = false) (hcounter : t.counter.toNat = m.counter.toNat + 1) :
    t.ticksLeft < m.ticksLeft := by
  have := t.counter.isLt
  have := t.pipelineState.ticksLeft_le_six
  have := m.pipelineState.ticksLeft_pos
  rw [Mach.ticksLeft_running hm, Mach.ticksLeft]
  split <;> omega

/-- A running machine whose argument address faults, or goes on within its instruction. -/
theorem Mach.ticksLeft_argAddress_lt {u : Mach c} {k : Nat} {next : Word c.w → Mach c} (hm : m.terminated = false)
    (hn : ∀ a, (next a).ticksLeft < m.ticksLeft) : (u.argAddress k next).ticksLeft < m.ticksLeft := by
  rw [Mach.argAddress_eq]
  split
  · exact Mach.ticksLeft_lt_of_halted hm rfl
  · exact hn _

/-! ## The instructions and the pipeline states -/

/-- The Counter after a step that does not carry (40_alu R112). -/
theorem toNat_addW_oneWord {a : Word c.w} (h : ¬ (addW a (oneWord c.w)).2 = true) :
    (addW a (oneWord c.w)).1.toNat = a.toNat + 1 := by
  rw [addW_carry, toNat_oneWord, decide_eq_true_eq, Nat.not_le] at h
  rw [addW_sum, toNat_add_oneWord h]

/-- A commit halts the machine or counts its instruction (40_alu R112). -/
theorem Mach.commit_halts_or_counts (m : Mach c) (n : Nat) :
    (m.commit n).terminated = true ∨ (m.commit n).counter.toNat = m.counter.toNat + 1 := by
  rw [Mach.commit_eq]
  split
  · exact .inl rfl
  · next hcounter =>
    split
    · exact .inl rfl
    · exact .inr (toNat_addW_oneWord hcounter)

/-- A jump halts the machine or counts its instruction (46_compare_branch R210). -/
theorem Mach.jumpTo_halts_or_counts (m : Mach c) (x : Word c.w) :
    (m.jumpTo x).terminated = true ∨ (m.jumpTo x).counter.toNat = m.counter.toNat + 1 := by
  rw [Mach.jumpTo_eq]
  split
  · exact .inl rfl
  · next hcounter => exact .inr (toNat_addW_oneWord hcounter)

/-- A handler that commits or jumps halts the machine or counts its instruction (40_alu R112, R113). -/
theorem Mach.Ends.ticksLeft_lt {i : Instr} (h : m.Ends i t) (hm : m.terminated = false) : t.ticksLeft < m.ticksLeft := by
  have hend : t.terminated = true ∨ t.counter.toNat = m.counter.toNat + 1 := by
    cases h with
    | badIndex => exact .inl rfl
    | commit u hw => exact hw.counter ▸ u.commit_halts_or_counts _
    | jump u a hw => exact hw.counter ▸ u.jumpTo_halts_or_counts a
  obtain hhalts | hcounts := hend
  · exact Mach.ticksLeft_lt_of_halted hm hhalts
  · exact Mach.ticksLeft_lt_of_counter hm hcounts

/-- LD's first phase faults on its index, or goes on to Execute2 (45_load_store R200). -/
theorem Mach.ldPhase1_ticksLeft_lt (hm : m.terminated = false) (hp : m.pipelineState = .execute1) (x : Nat) :
    (m.ldPhase1 x).ticksLeft < m.ticksLeft := by
  by_cases hx : x < c.cnCount
  · rw [Mach.ldPhase1_inside m hx]
    exact Mach.ticksLeft_lt_of_pipelineState .execute2 hm hp
  · rw [Mach.ldPhase1, Mach.readCR_beyond m hx]
    exact Mach.ticksLeft_lt_of_halted hm rfl

/-- Every handler takes a tick in Execute1 (41_pipeline R137). -/
theorem exec_ticksLeft_lt {i : Instr} (hm : m.terminated = false) (hp : m.pipelineState = .execute1)
    (h : exec i ⟨c, m⟩ = .next ⟨c, t⟩) : t.ticksLeft < m.ticksLeft := by
  by_cases hld : ∃ x y, i = .ld x y
  · obtain ⟨x, y, rfl⟩ := hld
    cases h.symm.trans (exec_ld_phase1 m x y (by simp [hp]))
    exact Mach.ldPhase1_ticksLeft_lt hm hp x
  · exact (ends_of_exec (fun x y hi => absurd ⟨x, y, hi⟩ hld) h).ticksLeft_lt hm

theorem Mach.decodeStep_ticksLeft_lt (hm : m.terminated = false) (hp : m.pipelineState = .decode) :
    m.decodeStep.ticksLeft < m.ticksLeft := by
  cases hl : lookup m.data.toNat with
  | none =>
    rw [Mach.decodeStep_unknown hl]
    exact Mach.ticksLeft_lt_of_halted hm rfl
  | some row =>
    rw [Mach.decodeStep_known hl]
    split
    · exact Mach.ticksLeft_lt_of_pipelineState .execute1 hm hp
    · exact Mach.ticksLeft_argAddress_lt hm fun _ => Mach.ticksLeft_lt_of_pipelineState .read1 hm hp

theorem Mach.read1Step_ticksLeft_lt (hm : m.terminated = false) (hp : m.pipelineState = .read1) :
    m.read1Step.ticksLeft < m.ticksLeft := by
  rw [Mach.read1Step_eq]
  split
  · exact Mach.ticksLeft_argAddress_lt hm fun _ => Mach.ticksLeft_lt_of_pipelineState .read2 hm hp
  · exact Mach.ticksLeft_lt_of_pipelineState .execute1 hm hp

/-- Every pipeline state of a running machine takes a tick (41_pipeline R132). -/
theorem pipelineStep_ticksLeft_lt (hm : m.terminated = false) (h : pipelineStep ⟨c, m⟩ = .next ⟨c, t⟩) :
    t.ticksLeft < m.ticksLeft := by
  cases hp : m.pipelineState with
  | fetch =>
    cases h.symm.trans (pipelineStep_fetch hp)
    exact Mach.ticksLeft_lt_of_pipelineState .decode hm hp
  | decode =>
    cases h.symm.trans (pipelineStep_decode hp)
    exact Mach.decodeStep_ticksLeft_lt hm hp
  | read1 =>
    cases h.symm.trans (pipelineStep_read1 hp)
    exact Mach.read1Step_ticksLeft_lt hm hp
  | read2 =>
    cases h.symm.trans (pipelineStep_read2 hp)
    exact Mach.ticksLeft_lt_of_pipelineState .execute1 hm hp
  | execute1 =>
    cases hd : decode m.scratch with
    | error e =>
      cases h.symm.trans (pipelineStep_execute1_unknown hp hd)
      exact Mach.ticksLeft_lt_of_halted hm rfl
    | ok r => exact exec_ticksLeft_lt hm hp ((pipelineStep_execute1 hp hd).symm.trans h)
  | execute2 =>
    by_cases hop : m.commandCode.toNat = ldOpcode
    · exact (ends_of_exec (fun _ _ _ => hp) ((pipelineStep_execute2 hp hop).symm.trans h)).ticksLeft_lt hm
    · cases h.symm.trans (pipelineStep_execute2_other hp hop)
      exact Mach.ticksLeft_lt_of_halted hm rfl
  | invalid6 =>
    cases h.symm.trans (pipelineStep_invalid (.inl hp))
    exact Mach.ticksLeft_lt_of_halted hm rfl
  | invalid7 =>
    cases h.symm.trans (pipelineStep_invalid (.inr hp))
    exact Mach.ticksLeft_lt_of_halted hm rfl

end TicksLeft

/-! ## The runs -/

/-- Everything a step can do to the ticks that are left: the machine has halted, the step is a host error, or it takes a
tick. -/
theorem step_ticksLeft_cases (m : Mach c) :
    m.terminated = true ∨ (0 < m.ticksLeft ∧ step ⟨c, m⟩ = .fault .ramAddressOutOfRange) ∨
      ∃ t : Mach c, t.ticksLeft < m.ticksLeft ∧ step ⟨c, m⟩ = .next ⟨c, t⟩ := by
  obtain ⟨hm, -⟩ | ⟨hm, -, hstep⟩ | ⟨t, u, hm, hs, hp, hstep⟩ := step_cases m
  · exact .inl hm
  · exact .inr (.inl ⟨Mach.ticksLeft_pos hm, hstep⟩)
  · obtain ⟨ram, data, rfl⟩ := Mach.serviceRequest_ramData hs
    exact .inr (.inr ⟨u, pipelineStep_ticksLeft_lt (m := { m with ram := ram, data := data, en := false }) hm hp, hstep⟩)

/-- A run ends within the ticks that are left (60_exceptions R236). -/
theorem run_ends_within_ticksLeft {n : Nat} {m : Mach c} (h : m.ticksLeft ≤ n) :
    ∃ k ≤ n, (∃ t, run k ⟨c, m⟩ = .next t ∧ t.halted) ∨ run k ⟨c, m⟩ = .fault .ramAddressOutOfRange := by
  induction n generalizing m with
  | zero =>
    obtain hm | ⟨hpos, -⟩ | ⟨t, hlt, -⟩ := step_ticksLeft_cases m
    · exact ⟨0, Nat.le_refl 0, .inl ⟨_, rfl, hm⟩⟩
    · omega
    · omega
  | succ n ih =>
    obtain hm | ⟨-, hstep⟩ | ⟨t, hlt, hstep⟩ := step_ticksLeft_cases m
    · exact ⟨0, Nat.zero_le _, .inl ⟨_, rfl, hm⟩⟩
    · exact ⟨1, Nat.le_add_left 1 n, .inr (by simp only [run, hstep])⟩
    · obtain ⟨k, hk, hends⟩ := ih (m := t) (by omega)
      exact ⟨k + 1, Nat.succ_le_succ hk, by rwa [run_succ k hstep]⟩

/-- Settles O60, by the ticks that are left, which are at most 6 * 2^W and fewer after every tick. -/
theorem everyRunEnds : Obligations.EveryRunEnds :=
  fun ⟨_, m⟩ => run_ends_within_ticksLeft m.ticksLeft_le

end Sys2Proof.Machine
end

section
/-! Construction: its three checks, and the machine it makes (70_reset R250). -/

namespace Sys2Proof.Machine

/-- Everything that construction makes: with its three checks passed, the initial machine over the image's RAM
(70_reset R250). -/
theorem construct_eq_ok_iff {w cpuMemBits ramWords : Nat} {image : List (Word w)} {s : State} :
    construct w cpuMemBits ramWords image = .ok s ↔
      ∃ (hw : 4 ≤ w) (hr : 8 * w ≤ cpuMemBits), image.length = ramWords ∧
        s = ⟨⟨w, cpuMemBits, ramWords, hw, hr⟩, Mach.initial _ (Ram.ofImage 0 image)⟩ := by
  unfold construct
  by_cases hw : 4 ≤ w
  · by_cases hr : 8 * w ≤ cpuMemBits
    · by_cases hl : image.length = ramWords <;> simp [hw, hr, hl, eq_comm]
    · simp [hw, hr]
  · simp [hw]

/-- The RAM of an image holds the image's words at their addresses (20_memory R68). -/
theorem Ram.read_ofImage_getElem {w : Nat} (image : List (Word w)) {a : Nat} (h : a < image.length) :
    Ram.read (Ram.ofImage 0 image) a = image[a] := by
  simp [Ram.read_ofImage, h]

/-- Settles O10: each check that fails is an error, and the machine that construction makes is the initial one. -/
theorem constructionMakesTheThreeChecks : Obligations.ConstructionMakesTheThreeChecks := by
  intro w cpuMemBits ramWords image
  refine ⟨⟨?_, ?_⟩, ?_⟩
  · rintro ⟨s, hs⟩
    obtain ⟨hw, hr, hl, -⟩ := construct_eq_ok_iff.1 hs
    exact ⟨hw, hr, hl⟩
  · rintro ⟨hw, hr, hl⟩
    exact ⟨_, construct_eq_ok_iff.2 ⟨hw, hr, hl, rfl⟩⟩
  · intro s hs
    obtain ⟨hw, hr, rfl, rfl⟩ := construct_eq_ok_iff.1 hs
    exact ⟨rfl, rfl, rfl, Mach.cpuImage_initial _, Mach.ctrlBus_initial _, rfl, rfl,
      Mach.initial_inv (Ram.ofImage_wf (Nat.le_refl _)),
      fun a ha => congrArg BitVec.toNat (Ram.read_ofImage_getElem image ha)⟩

end Sys2Proof.Machine
end

section
/-! The bit fields of CPU memory at their References (10_state R21, R22, R26, R36). -/

namespace Sys2Proof.Machine

variable {c : Config}

/-- A bit field of one bit is that bit (40_alu R106). -/
theorem getBits_one {n : Nat} (v : BitVec n) (offset : Nat) : getBits v offset 1 = BitVec.ofBool (v.getLsbD offset) := by
  apply BitVec.eq_of_getLsbD_eq
  intro i hi
  obtain rfl : i = 0 := by omega
  simp

/-- A bit field of CPU memory inside System, slot 0 (10_state R22). -/
theorem Mach.readRef_system (m : Mach c) {o n : Nat} (h : o + n ≤ c.w) :
    m.readRef ⟨o, n⟩ = getBits m.systemWord o n := by
  have hin := m.getBits_cpuImage_inSlot (k := 0) (by simp [serviceRegisters]) h
  rwa [Nat.zero_mul, Nat.zero_add] at hin

/-- A bit field of CPU memory inside Flags, slot 4 (10_state R26). -/
theorem Mach.readRef_flags (m : Mach c) {o n : Nat} (h : o + n ≤ c.w) :
    m.readRef ⟨4 * c.w + o, n⟩ = getBits m.flagsWord o n :=
  m.getBits_cpuImage_inSlot (k := 4) (by simp only [serviceRegisters]; omega) h

/-- A flag of CPU memory (10_state R26). -/
theorem Mach.readRef_flag (m : Mach c) {i : Nat} (h : i < 4) :
    m.readRef ⟨4 * c.w + i, 1⟩ = BitVec.ofBool (m.flagsWord.getLsbD i) := by
  have hw := c.wide
  exact (m.readRef_flags (by omega)).trans (getBits_one _ _)

/-- Settles O11: each slot is its word of CPU memory, and each bit field is that of its slot's word. -/
theorem cpuMemoryHoldsEveryFieldAtItsReference : Obligations.CpuMemoryHoldsEveryFieldAtItsReference := by
  intro c m
  have hw := c.wide
  obtain ⟨hstate, hmode, hsystem⟩ := m.systemWord_fields
  obtain ⟨hterminated, hoverflow, hfatal, hzero, hflags⟩ := m.flagsWord_fields
  rw [← hstate, ← hmode, ← hsystem, ← hterminated, ← hoverflow, ← hfatal, ← hzero, ← hflags]
  refine ⟨fun _ hk => m.getBits_cpuImage_slot hk, ?_, ?_, ?_, ?_, ?_, ?_, ?_, ?_⟩
  · exact m.readRef_system (by omega)
  · exact (m.readRef_system (by omega)).trans (getBits_one _ _)
  · exact m.readRef_system (by omega)
  · exact m.readRef_flag (i := 0) (by decide)
  · exact m.readRef_flag (i := 1) (by decide)
  · exact m.readRef_flag (i := 2) (by decide)
  · exact m.readRef_flag (i := 3) (by decide)
  · exact m.readRef_flags (by omega)

end Sys2Proof.Machine
end
